-- ==== Sys2Proof/Word.lean ====
section
/-! DEFINITION. The value types of the block: every value is an unsigned integer of a stated width (00_scope R8). -/

namespace Sys2Proof

/-- One byte of the serial link or of a payload (10_state R17). -/
abbrev Byte := BitVec 8

/-- One 32-bit wire word (30_encoding R68). -/
abbrev Word := BitVec 32

/-- A 16-bit container or interval (30_encoding R56, R60). -/
abbrev Half := BitVec 16

/-- An identifier as the block holds it: 29 bits, a standard one zero-extended (10_state R26). -/
abbrev Ident := BitVec 29

/-- A standard identifier: 11 bits (00_scope R7, `STD_ID_BITS`). -/
abbrev StdIdent := BitVec 11

end Sys2Proof
end

