-- ==== Sys2Proof/Config.lean ====
section
/-! DEFINITION. The implementation parameters of 00_scope R7. They are fixed when the block is built (10_state R31); the model
holds the open ones in a structure that every state carries, so that a statement about every state is a statement about every
choice of them (log 10). -/

namespace Sys2Proof

/-- `FEED_WHILE_READY` (00_scope R7, 40_serial_assembler R86, decision D5). -/
inductive FeedWhileReady where
  | drop
  | append
deriving DecidableEq, Repr

/-- `TIMER_MODEL` (00_scope R7, 42_repeat_scheduler R109 and R110, decision D15). -/
inductive TimerModel where
  | external
  | internalMs
deriving DecidableEq, Repr

/-- `ID_WORD_LAYOUT` (00_scope R7, 30_encoding R70): `BXCAN` is the only layout the spec defines. PRESUMED (log 11): the layout
comes from general knowledge of one controller family (GK1, GK2). -/
inductive IdWordLayout where
  | bxcan
deriving DecidableEq, Repr

/-- A capability of the source's full variant: fixed at enabled (00_scope R7, decision D21). -/
inductive Capability where
  | enabled
deriving DecidableEq, Repr

/-- The parameters a model takes as configuration fields, each with the default of 00_scope R7. -/
structure Config where
  ceil           : Nat            := 30
  feedWhileReady : FeedWhileReady := .drop
  txCounterInit  : Byte           := 0
  idWordLayout   : IdWordLayout   := .bxcan
  timerModel     : TimerModel     := .external
  antiReplay     : Capability     := .enabled
  bidirectional  : Capability     := .enabled
deriving DecidableEq, Repr

namespace Config

/-- The default choice of every parameter (00_scope R7). -/
def default : Config := {}

/-- `MIN_FRAME`: bytes held before any field is evaluated (00_scope R7). -/
abbrev minFrame : Nat := 6

/-- `MAX_CMD_PAYLOAD`: longest host payload (00_scope R7). -/
abbrev maxCmdPayload : Nat := 7

/-- `MAX_BUS_PAYLOAD`: longest bus payload (00_scope R7). -/
abbrev maxBusPayload : Nat := 8

/-- The least ceiling the spec allows: the longest valid request frame, 8 + 7 bytes (00_scope R7). -/
abbrev minCeil : Nat := 15

/-- The ceiling is one the spec describes (00_scope R7, 60_exceptions R155). -/
abbrev Admitted (c : Config) : Prop := minCeil ≤ c.ceil

end Config

end Sys2Proof
end

