-- ==== Sys2Proof/Syntax.lean ====
section
/-! DEFINITION. The rows of spec/opcode_table.json as one inductive, and the formats of 30_encoding R53. -/

namespace Sys2Proof

/-- The formats of 30_encoding R53, with the host's two request layouts and the two notification layouts each under one name,
and `internal` for the rows that no input selects. -/
inductive Format where
  | evt
  | req
  | ntf
  | wire
  | internal
deriving DecidableEq, Repr

/-- One constructor per row of spec/opcode_table.json. What the rows of a frame format (REQ0 to WIRE_EXT) stand for as
instructions is the model's choice (log 3), and so is running an internal function as a row of its own (log 4). -/
inductive Instr where
  /-- FEED (R79): one serial byte. -/
  | feed (b : Byte)
  /-- DISPATCH (R91). -/
  | dispatch
  /-- TICK (R102). -/
  | tick
  /-- STOP (R105). -/
  | stop
  /-- BUS_RX (R131): the wire words of one inbound frame. -/
  | busRx (idw dlcw dlw dhw : Word)
  /-- RESET (R157). -/
  | reset
  /-- MS (R111). -/
  | ms
  /-- REQ0 (R56, R77): a whole request frame with a 16-bit identifier container. -/
  | req0 (idc : Half) (payload : List Byte) (interval : Half)
  /-- REQ1 (R57, R77): a whole request frame with a 32-bit identifier container. -/
  | req1 (idc : Word) (payload : List Byte) (interval : Half)
  /-- REQ_INVALID (R62, R84): the six bytes at which an invalid request frame is found. -/
  | reqInvalid (b0 b1 b2 b3 b4 b5 : Byte)
  /-- NTF0 (R64): a whole notification of a standard frame. -/
  | ntf0 (id : StdIdent) (app : List Byte) (flag : Bool)
  /-- NTF1 (R65): a whole notification of an extended frame. -/
  | ntf1 (id : Ident) (app : List Byte) (flag : Bool)
  /-- WIRE_STD (R70): wire words whose identifier word has IDE = 0. -/
  | wireStd (idw dlcw dlw dhw : Word)
  /-- WIRE_EXT (R70): wire words whose identifier word has IDE = 1. -/
  | wireExt (idw dlcw dlw dhw : Word)
  /-- ENCODE (R113). -/
  | encode (ext : Bool) (id : Ident) (data : List Byte)
  /-- DECODE (R117). -/
  | decode (idw dlcw dlw dhw : Word)
  /-- CHECK (R123). -/
  | check (id : Ident) (c : Byte)
deriving DecidableEq, Repr

/-- The format a row of the table is written in ("format" in spec/opcode_table.json; ENCODE, DECODE and CHECK are "internal"
there by their match). -/
def Instr.format : Instr → Format
  | .feed _ => .evt
  | .dispatch => .evt
  | .tick => .evt
  | .stop => .evt
  | .busRx _ _ _ _ => .evt
  | .reset => .evt
  | .ms => .evt
  | .req0 _ _ _ => .req
  | .req1 _ _ _ => .req
  | .reqInvalid _ _ _ _ _ _ => .req
  | .ntf0 _ _ _ => .ntf
  | .ntf1 _ _ _ => .ntf
  | .wireStd _ _ _ _ => .wire
  | .wireExt _ _ _ _ => .wire
  | .encode _ _ _ => .internal
  | .decode _ _ _ _ => .internal
  | .check _ _ => .internal

end Sys2Proof
end

