-- ==== Sys2Proof/WellFormed.lean ====
section
/-! DEFINITION. Which instruction terms an encoding of the spec can stand for. -/

namespace Sys2Proof

/-- The six bytes are an invalid request frame (30_encoding R62): the mode byte is neither 0x00 nor 0x01, or the length byte
(byte 3 in mode 0, byte 5 in mode 1) is above 7. -/
def badRequest (b0 b3 b5 : Byte) : Bool :=
  if b0 = 0x00#8 then decide (Config.maxCmdPayload < b3.toNat)
  else if b0 = 0x01#8 then decide (Config.maxCmdPayload < b5.toNat)
  else true

/-- Well-formedness: a request payload of at most 7 bytes (30_encoding R59), six bytes that are invalid as R62 says, an
application payload of at most 7 bytes (30_encoding R63), and the IDE bit of the row (30_encoding R71). Every other operand
takes any value of its width; ENCODE takes a sequence of any length (43_bus_codec R113, R116). -/
def Instr.wellFormed : Instr → Bool
  | .feed _ => true
  | .dispatch => true
  | .tick => true
  | .stop => true
  | .busRx _ _ _ _ => true
  | .reset => true
  | .ms => true
  | .req0 _ payload _ => decide (payload.length ≤ Config.maxCmdPayload)
  | .req1 _ payload _ => decide (payload.length ≤ Config.maxCmdPayload)
  | .reqInvalid b0 _ _ b3 _ b5 => badRequest b0 b3 b5
  | .ntf0 _ app _ => decide (app.length + 1 ≤ Config.maxBusPayload)
  | .ntf1 _ app _ => decide (app.length + 1 ≤ Config.maxBusPayload)
  | .wireStd idw _ _ _ => !idw.getLsbD 2
  | .wireExt idw _ _ _ => idw.getLsbD 2
  | .encode _ _ _ => true
  | .decode _ _ _ _ => true
  | .check _ _ => true

end Sys2Proof
end

