-- ==== Sys2Proof/Decode.lean ====
section
/-! DEFINITION. Bytes to instructions and back, from the encodings of 30_encoding: the byte-order helpers, the decoder of each
format (total; what is no encoding gives none), the encoder written from the same tables, and the view the host's table
words use. -/

namespace Sys2Proof

/-! Byte order (00_scope R10, 20_memory R40 and R41). -/

/-- `be16(a, b)` of 00_scope R10: the first byte is the most significant. -/
def be16 (a b : Byte) : Half := a ++ b

/-- `be32(a, b, c, d)` of 00_scope R10. -/
def be32 (a b c d : Byte) : Word := a ++ b ++ c ++ d

/-- The big-endian bytes of a 16-bit value (20_memory R40). -/
def beBytes16 (v : Half) : List Byte := [v.extractLsb' 8 8, v.extractLsb' 0 8]

/-- The big-endian bytes of a 32-bit value (20_memory R40). -/
def beBytes32 (v : Word) : List Byte :=
  [v.extractLsb' 24 8, v.extractLsb' 16 8, v.extractLsb' 8 8, v.extractLsb' 0 8]

/-- Four bytes as a word, the first byte at bits 7:0 (20_memory R41, 30_encoding R69 and R74). -/
def le32 (a b c d : Byte) : Word := d ++ c ++ b ++ a

/-- The bytes of a word, bits 7:0 first (20_memory R41, 30_encoding R69 and R74). -/
def leBytes32 (v : Word) : List Byte :=
  [v.extractLsb' 0 8, v.extractLsb' 8 8, v.extractLsb' 16 8, v.extractLsb' 24 8]

/-- One bit as a byte, 0x00 or 0x01 (30_encoding R66). -/
def flagByte (b : Bool) : Byte := if b then 0x01#8 else 0x00#8

/-- A length byte: every length written is at most 8, so nothing is lost. -/
def lenByte (n : Nat) : Byte := BitVec.ofNat 8 n

/-- The bytes of a notification (30_encoding R64 and R65, 45_inbound_processor R131): the extended flag, the identifier
big-endian in 4 or 2 bytes, the application payload length, the application payload, the attack flag. -/
def ntfBytes (ext : Bool) (id : Ident) (app : List Byte) (flag : Bool) : List Byte :=
  [flagByte ext]
    ++ (if ext then beBytes32 (id.setWidth 32) else beBytes16 (id.setWidth 16))
    ++ [lenByte app.length] ++ app ++ [flagByte flag]

/-! Decoding. Each format has a decoder from a byte list to an instruction and the bytes after it. -/

/-- The next four bytes as a word, least significant first (30_encoding R74). -/
def takeWord : List Byte → Option (Word × List Byte)
  | a :: b :: c :: d :: rest => some (le32 a b c d, rest)
  | _ => none

/-- The next sixteen bytes as the four wire words in the order IDW, DLCW, DLW, DHW (30_encoding R74). -/
def takeWords (bs : List Byte) : Option (Word × Word × Word × Word × List Byte) :=
  match takeWord bs with
  | none => none
  | some (idw, bs1) =>
    match takeWord bs1 with
    | none => none
    | some (dlcw, bs2) =>
      match takeWord bs2 with
      | none => none
      | some (dlw, bs3) =>
        match takeWord bs3 with
        | none => none
        | some (dhw, rest) => some (idw, dlcw, dlw, dhw, rest)

/-- One `EVT` record (30_encoding R74). An op byte 0x00 or 0x08 to 0xFF is not a record, nor is one whose operands are cut
off (log 6). -/
def decodeEvt : List Byte → Option (Instr × List Byte)
  | [] => none
  | op :: rest =>
    if op = 0x01#8 then
      match rest with
      | b :: rest' => some (.feed b, rest')
      | [] => none
    else if op = 0x02#8 then some (.dispatch, rest)
    else if op = 0x03#8 then some (.tick, rest)
    else if op = 0x04#8 then some (.stop, rest)
    else if op = 0x05#8 then
      match takeWords rest with
      | some (idw, dlcw, dlw, dhw, rest') => some (.busRx idw dlcw dlw dhw, rest')
      | none => none
    else if op = 0x06#8 then some (.reset, rest)
    else if op = 0x07#8 then some (.ms, rest)
    else none

/-- The part of a request frame after its header: `len` payload bytes and the big-endian interval (30_encoding R55). -/
def takeBody (len : Nat) (bs : List Byte) : Option (List Byte × Half × List Byte) :=
  match bs.drop len with
  | hi :: lo :: rest => some (bs.take len, be16 hi lo, rest)
  | _ => none

/-- One request frame (30_encoding R54 to R62). A frame that is invalid as R62 says is REQ_INVALID, which the table tries last
(R78; log 5); a frame cut off is no frame. -/
def decodeReq : List Byte → Option (Instr × List Byte)
  | b0 :: b1 :: b2 :: b3 :: b4 :: b5 :: rest =>
    if badRequest b0 b3 b5 then some (.reqInvalid b0 b1 b2 b3 b4 b5, rest)
    else if b0 = 0x00#8 then
      match takeBody b3.toNat (b4 :: b5 :: rest) with
      | some (payload, interval, rest') => some (.req0 (be16 b1 b2) payload interval, rest')
      | none => none
    else
      match takeBody b5.toNat rest with
      | some (payload, interval, rest') => some (.req1 (be32 b1 b2 b3 b4) payload interval, rest')
      | none => none
  | _ => none

/-- The value of an attack flag byte: 0x00 or 0x01 and nothing else (30_encoding R66). -/
def readFlag (b : Byte) : Option Bool :=
  if b = 0x00#8 then some false else if b = 0x01#8 then some true else none

/-- The part of a notification after its identifier: the length `n` in 0..7, the payload and the flag (30_encoding R63). -/
def takeNote (bs : List Byte) : Option (List Byte × Bool × List Byte) :=
  match bs with
  | [] => none
  | n :: bs' =>
    if n.toNat + 1 ≤ Config.maxBusPayload then
      match bs'.drop n.toNat with
      | f :: rest =>
        (readFlag f).map (fun flag => (bs'.take n.toNat, flag, rest))
      | [] => none
    else none

/-- One notification frame (30_encoding R64 and R65): the identifier's container bits above its width are zero. -/
def decodeNtf : List Byte → Option (Instr × List Byte)
  | e :: a :: b :: rest =>
    if e = 0x00#8 then
      if (be16 a b).toNat < 2 ^ 11 then
        (takeNote rest).map (fun r => (.ntf0 ((be16 a b).setWidth 11) r.1 r.2.1, r.2.2))
      else none
    else if e = 0x01#8 then
      match rest with
      | c :: d :: rest' =>
        if (be32 a b c d).toNat < 2 ^ 29 then
          (takeNote rest').map (fun r => (.ntf1 ((be32 a b c d).setWidth 29) r.1 r.2.1, r.2.2))
        else none
      | _ => none
    else none
  | _ => none

/-- One tuple of wire words, selected by bit 2 of the identifier word (30_encoding R70 and R71). -/
def decodeWire (bs : List Byte) : Option (Instr × List Byte) :=
  match takeWords bs with
  | none => none
  | some (idw, dlcw, dlw, dhw, rest) =>
    if idw.getLsbD 2 then some (.wireExt idw dlcw dlw dhw, rest) else some (.wireStd idw dlcw dlw dhw, rest)

/-- The decoder: one instruction of the format, and the bytes after it. No input selects an internal function (43_bus_codec
R113 and R117, 44_replay_guard R123), so that format has no encoding. -/
def decode : Format → List Byte → Option (Instr × List Byte)
  | .evt, bs => decodeEvt bs
  | .req, bs => decodeReq bs
  | .ntf, bs => decodeNtf bs
  | .wire, bs => decodeWire bs
  | .internal, _ => none

/-- Every byte of the stream belongs to an instruction of the format: `fuel` bounds the number of instructions. -/
def streamOk (fmt : Format) : Nat → List Byte → Bool
  | _, [] => true
  | 0, _ :: _ => false
  | fuel + 1, b :: bs =>
    match decode fmt (b :: bs) with
    | none => false
    | some (_, rest) => streamOk fmt fuel rest

/-- The whole stream is one of records (30_encoding R74: "a model refuses the whole stream"). An instruction takes at least one
byte, so the length is fuel enough. -/
def validStream (fmt : Format) (bs : List Byte) : Bool := streamOk fmt bs.length bs

/-! Encoding, written from the same tables. -/

/-- The bytes of an instruction in its own format; an internal function has none. -/
def encode : Instr → List Byte
  | .feed b => [0x01#8, b]
  | .dispatch => [0x02#8]
  | .tick => [0x03#8]
  | .stop => [0x04#8]
  | .busRx idw dlcw dlw dhw => 0x05#8 :: (leBytes32 idw ++ leBytes32 dlcw ++ leBytes32 dlw ++ leBytes32 dhw)
  | .reset => [0x06#8]
  | .ms => [0x07#8]
  | .req0 idc payload interval => 0x00#8 :: (beBytes16 idc ++ [lenByte payload.length] ++ payload ++ beBytes16 interval)
  | .req1 idc payload interval => 0x01#8 :: (beBytes32 idc ++ [lenByte payload.length] ++ payload ++ beBytes16 interval)
  | .reqInvalid b0 b1 b2 b3 b4 b5 => [b0, b1, b2, b3, b4, b5]
  | .ntf0 id app flag => ntfBytes false (id.setWidth 29) app flag
  | .ntf1 id app flag => ntfBytes true id app flag
  | .wireStd idw dlcw dlw dhw => leBytes32 idw ++ leBytes32 dlcw ++ leBytes32 dlw ++ leBytes32 dhw
  | .wireExt idw dlcw dlw dhw => leBytes32 idw ++ leBytes32 dlcw ++ leBytes32 dlw ++ leBytes32 dhw
  | .encode _ _ _ => []
  | .decode _ _ _ _ => []
  | .check _ _ => []

/-! The table's words. A row of spec/opcode_table.json is numbered with bit 0 the least significant bit of its first byte. -/

/-- The longest instruction any format has: the BUS_RX record, 17 bytes (30_encoding R74). -/
def longestInstr : Nat := 17

/-- The bytes of a table word of `nbits` bits, first byte first, zero above `nbits`. -/
def tableBytes (nbits w : Nat) : List Byte :=
  (List.range longestInstr).map (fun k => BitVec.ofNat 8 ((w % 2 ^ nbits) >>> (8 * k)))

/-- The format a table word is read in (log 5). The rows of several formats share their first byte, so a bare number cannot
tell them apart: a word of one or of four wire words is WIRE, an op byte of `EVT` is a record, anything else is a request. -/
def tableFormat (nbits w : Nat) : Format :=
  if nbits = 32 ∨ nbits = 128 then .wire
  else if 1 ≤ w % 256 ∧ w % 256 ≤ 7 then .evt
  else .req

/-- The instruction the decoder reads from a table word. -/
def decodeTableWord (nbits w : Nat) : Option Instr :=
  (decode (tableFormat nbits w) (tableBytes nbits w)).map Prod.fst

/-- The bytes of a table word that its instruction takes; all of them where it is none. -/
def tableInput (nbits w : Nat) : List Byte :=
  match decode (tableFormat nbits w) (tableBytes nbits w) with
  | some (_, rest) => (tableBytes nbits w).take ((tableBytes nbits w).length - rest.length)
  | none => tableBytes nbits w

end Sys2Proof
end

