-- ==== Sys2Proof/Machine/State.lean ====
section
/-! DEFINITION. The state of the block as plain data: every element of 10_state R17 under its own name, the parameters of
00_scope R7, and the model's own fields for what stands outside the block (events to come, bus responses, emissions). Also the
reasons a step can stop, and the state after reset. -/

namespace Sys2Proof.Machine

/-- The status FEED returns (00_scope R14, 40_serial_assembler R79). -/
inductive FeedStatus where
  | incomplete
  | complete
  | invalid
deriving DecidableEq, Repr

/-- The result of CHECK (00_scope R14, 44_replay_guard R123). -/
inductive CheckResult where
  | clean
  | suspectedReplay
deriving DecidableEq, Repr

/-- The bus collaborator's response to a send (00_scope R14, 10_state R35). -/
inductive BusResp where
  | ok
  | busy
  | busOff
deriving DecidableEq, Repr

/-- A command to the timer collaborator (10_state R35). -/
inductive TimerCmd where
  | stop
  | arm (period : Half)
deriving DecidableEq, Repr

/-- The four wire words of one bus frame (30_encoding R68). -/
structure Wire where
  idw  : Word
  dlcw : Word
  dlw  : Word
  dhw  : Word
deriving DecidableEq, Repr

/-- A bus frame (00_scope R12): the extended flag, the identifier, the payload. -/
structure BusFrame where
  ext  : Bool
  id   : Ident
  data : List Byte
deriving DecidableEq, Repr

/-- One emission on an output port (10_state R35). -/
inductive Output where
  /-- The status of one FEED. -/
  | feedStatus (r : FeedStatus)
  /-- One `send_bus_frame`, with the response it got. -/
  | busTx (w : Wire) (resp : BusResp)
  /-- The bytes of one notification, appended whole. -/
  | hostTx (bytes : List Byte)
  /-- One timer command. -/
  | timerCtl (c : TimerCmd)
deriving DecidableEq, Repr

/-- What an internal function returns when it is run as a row of its own (the model's own; log 4). -/
inductive FnResult where
  | wire (w : Wire)
  | frame (f : BusFrame)
  | verdict (r : CheckResult)
deriving DecidableEq, Repr

/-- Bytes some of which hold no value yet (10_state R30; log 9). -/
abbrev Cells := List (Option Byte)

/-- The state elements that hold no value after reset (10_state R17, R30). -/
inductive Element where
  | buf
  | repExt
  | repId
  | repLen
  | repData
  | trkId
  | trkCounter
  | tmrPeriod
  | tmrRemaining
deriving DecidableEq, Repr

/-- Why the model stops with a fault (60_exceptions R155). The block itself never faults; every reason is a broken premise. -/
inductive Fault where
  /-- A read of an element that holds no value (10_state R30, 60_exceptions R155). Raised by FEED, DISPATCH, TICK, MS, BUS_RX
  and CHECK and by the rows that run them, only in states outside the invariant of R29. Safe. -/
  | noValue (e : Element)
  /-- An index outside an array. Raised by FEED, DISPATCH, TICK and MS and by the rows that run them, only in states outside the invariant of R29 (log 14). Safe. -/
  | badIndex (e : Element)
  /-- DISPATCH with a mode byte other than 0x00 and 0x01 (41_command_dispatch R98, 60_exceptions R155). Safe. -/
  | dispatchMode
  /-- DISPATCH with a length byte above 7 (41_command_dispatch R98, 60_exceptions R155). Safe. -/
  | dispatchLength
  /-- STUCK: DISPATCH while `ready = 0`, where no step is enabled (30_encoding R74, 60_exceptions R155). Safe. -/
  | dispatchNotEnabled
deriving DecidableEq, Repr

/-- Why the model refuses (60_exceptions R155). -/
inductive Refusal where
  /-- No meaning for the instruction yet. Safe. -/
  | notModelled (mnemonic : String)
  /-- The input is not a stream of records of its format (30_encoding R74). Raised by the fetch. Safe. -/
  | badStream
  /-- MS under `TIMER_MODEL = EXTERNAL` (30_encoding R74). Raised by MS. Safe. -/
  | msExternal
  /-- `CEIL < 15` (00_scope R7). Raised by the fetch, before anything runs. Safe. -/
  | ceilTooSmall
deriving DecidableEq, Repr

/-- The state. The elements of 10_state R17 carry the spec's names; an optional element is one the spec says holds no value
after reset (10_state R30). -/
structure State where
  /-- The parameters of the block (00_scope R7); no operation changes them (10_state R31). -/
  cfg          : Config
  /-- `buf[0..CEIL-1]` (10_state R18). -/
  buf          : Cells
  /-- `count` (10_state R19). -/
  count        : Nat
  /-- `ready` (10_state R20). -/
  ready        : Bool
  /-- `tx_counter` (10_state R21). -/
  txCounter    : Byte
  /-- `rep_enabled`: false is Idle, true is Armed (10_state R22). -/
  repEnabled   : Bool
  /-- `rep_ext` (10_state R23). -/
  repExt       : Option Bool
  /-- `rep_id` (10_state R23). -/
  repId        : Option Ident
  /-- `rep_len` (10_state R23). -/
  repLen       : Option Nat
  /-- `rep_data[0..7]` (10_state R23). -/
  repData      : Cells
  /-- `rep_period` (10_state R24). -/
  repPeriod    : Option Half
  /-- `trk_valid` (10_state R25). -/
  trkValid     : Bool
  /-- `trk_id` (10_state R26). -/
  trkId        : Option Ident
  /-- `trk_counter` (10_state R27). -/
  trkCounter   : Option Byte
  /-- `attack_flag` (10_state R28). -/
  attackFlag   : Bool
  /-- `tmr_running`, of the timer reference model (42_repeat_scheduler R110; log 13). -/
  tmrRunning   : Bool
  /-- `tmr_period` (42_repeat_scheduler R110). -/
  tmrPeriod    : Option Half
  /-- `tmr_remaining` (42_repeat_scheduler R110). -/
  tmrRemaining : Option Half
  /-- MODEL's own (log 3): the format `input` is read in. -/
  inputFmt     : Format
  /-- MODEL's own (log 1): the events still to come, as the bytes of 30_encoding R74. -/
  input        : List Byte
  /-- MODEL's own (log 7): the responses to the sends still to come (30_encoding R74); past its end the default `ok`. -/
  script       : List BusResp
  /-- MODEL's own (log 8): every emission so far, in order (10_state R36). -/
  out          : List Output
  /-- MODEL's own (log 4): what the internal functions run as rows of their own returned, in order. -/
  results      : List FnResult
deriving DecidableEq, Repr

/-- The state after RESET for a choice of the parameters (70_reset_and_hazards R157, R159), with no event to come. -/
def State.resetWith (c : Config) : State where
  cfg := c
  buf := List.replicate c.ceil none
  count := 0
  ready := false
  txCounter := c.txCounterInit
  repEnabled := false
  repExt := none
  repId := none
  repLen := none
  repData := List.replicate Config.maxBusPayload none
  repPeriod := none
  trkValid := false
  trkId := none
  trkCounter := none
  attackFlag := false
  tmrRunning := false
  tmrPeriod := none
  tmrRemaining := none
  inputFmt := .evt
  input := []
  script := []
  out := []
  results := []

/-- The machine right after reset: the default parameters of 00_scope R7, power-on being the state after RESET (R159). -/
def State.reset : State := State.resetWith Config.default

end Sys2Proof.Machine
end

