-- ==== Sys2Proof/Machine/Ops.lean ====
section
/-! DEFINITION. The shared operations of the block: reads and writes of its two byte arrays, reads of elements that may hold no
value, emissions on the output ports, the timer reference model's view of `timer_ctl`, and the empty buffer. The block has no
traps (60_exceptions R143), so there is no operation here that takes an exception and none that returns from one. -/

namespace Sys2Proof.Machine

/-- The outcome of a meaning that goes on or stops with a fault. -/
def finish (r : Except Fault State) : Host.Outcome State Fault Refusal :=
  match r with
  | .ok s => .next s
  | .error f => .fault f

/-- The next state of an outcome, if it is one. -/
def nextState (o : Host.Outcome State Fault Refusal) : Option State :=
  match o with
  | .next s => some s
  | .fault _ => none
  | .refused _ => none

/-! Elements that may hold no value (10_state R30). -/

/-- Read an element; a read of one that holds no value is a fault. The spec states the stop: 10_state R30, "A model that finds
such a read has a bug and should fault; it must not supply a value.", and the first line of 60_exceptions R155. -/
def readValue {α : Type} (e : Element) (v : Option α) : Except Fault α :=
  match v with
  | some a => .ok a
  | none => .error (.noValue e)

/-- The byte at a position, if it holds one. -/
def byteAt (cells : Cells) (k : Nat) : Option Byte := (cells[k]?).join

/-- Read one byte of an array. A position that holds no value and one outside the array are faults. -/
def readCell (e : Element) (cells : Cells) (k : Nat) : Except Fault Byte :=
  match cells[k]? with
  | some v => readValue e v
  | none => .error (.badIndex e)

/-- Read `n` bytes from position `k` on: `cells[k .. k+n)` (00_scope R9). -/
def readCells (e : Element) (cells : Cells) (k : Nat) : Nat → Except Fault (List Byte)
  | 0 => .ok []
  | n + 1 =>
    match readCell e cells k with
    | .error f => .error f
    | .ok b =>
      match readCells e cells (k + 1) n with
      | .error f => .error f
      | .ok bs => .ok (b :: bs)

/-- Write one byte of an array; a position outside it is a fault (log 14). -/
def writeCell (e : Element) (cells : Cells) (k : Nat) (b : Byte) : Except Fault Cells :=
  if k < cells.length then .ok (cells.set k (some b)) else .error (.badIndex e)

/-- Write a byte sequence at the positions from 0 on and leave the others (41_command_dispatch R91). -/
def writePrefix (cells : Cells) (bs : List Byte) : Cells := bs.map some ++ cells.drop bs.length

/-! Emissions (10_state R35, R36). -/

/-- Append one emission: appends keep their order (00_scope R10, `emit`). -/
def emit (o : Output) (s : State) : State := { s with out := s.out ++ [o] }

/-- The timer reference model hears every `timer_ctl` (42_repeat_scheduler R110). -/
def applyTimer (c : TimerCmd) (s : State) : State :=
  match c with
  | .stop => { s with tmrRunning := false }
  | .arm p => { s with tmrRunning := true, tmrPeriod := some p, tmrRemaining := some p }

/-- `emit timer_ctl(c)`; under `INTERNAL_MS` the command also reaches the reference timer (42_repeat_scheduler R110). -/
def emitTimer (c : TimerCmd) (s : State) : State :=
  match s.cfg.timerModel with
  | .external => emit (.timerCtl c) s
  | .internalMs => emit (.timerCtl c) (applyTimer c s)

/-- The response the next send gets: the head of the script, and the default `ok` past its end (30_encoding R74; log 7). -/
def nextResp (s : State) : BusResp :=
  match s.script with
  | r :: _ => r
  | [] => .ok

/-- `send_bus_frame(w)` (00_scope R10, 10_state R35): emit the words with the response; no state records it. -/
def sendBusFrame (w : Wire) (s : State) : State :=
  emit (.busTx w (nextResp s)) { s with script := s.script.tail }

/-- Emit one whole notification on `host_tx` (45_inbound_processor R134). -/
def notifyHost (ext : Bool) (id : Ident) (app : List Byte) (flag : Bool) (s : State) : State :=
  emit (.hostTx (ntfBytes ext id app flag)) s

/-- Log what an internal function returned when it is run as a row of its own (log 4). -/
def giveResult (r : FnResult) (s : State) : State := { s with results := s.results ++ [r] }

/-! The assembler's buffer. -/

/-- `reset_buffer()` (40_serial_assembler R80): empty; the bytes stay as they are. -/
def resetBuffer (s : State) : State := { s with count := 0, ready := false }

/-- `buf[count] <- b; count <- count + 1` (40_serial_assembler R81, R82). -/
def storeByte (b : Byte) (s : State) : Except Fault State :=
  match writeCell .buf s.buf s.count b with
  | .error f => .error f
  | .ok c => .ok { s with buf := c, count := s.count + 1 }

/-! The sequence of each output port (10_state R36), read off the one ordered list. -/

/-- The `feed_status` values. -/
def State.feedStatuses (s : State) : List FeedStatus :=
  s.out.filterMap (fun o => match o with | .feedStatus r => some r | _ => none)

/-- The `bus_tx` emissions with their responses. -/
def State.busTxs (s : State) : List (Wire × BusResp) :=
  s.out.filterMap (fun o => match o with | .busTx w r => some (w, r) | _ => none)

/-- The `host_tx` byte stream. -/
def State.hostBytes (s : State) : List Byte :=
  (s.out.filterMap (fun o => match o with | .hostTx bs => some bs | _ => none)).flatten

/-- The `timer_ctl` commands. -/
def State.timerCtls (s : State) : List TimerCmd :=
  s.out.filterMap (fun o => match o with | .timerCtl c => some c | _ => none)

end Sys2Proof.Machine
end

