-- ==== Sys2Proof/Machine/Flags.lean ====
section
/-! DEFINITION. What the block computes as a flag or a status: the replay verdict, the attack flag, the numeric codes of
30_encoding R76. -/

namespace Sys2Proof.Machine

/-- The verdict on the tracked identifier: `(c - trk_counter) mod 256 = 0` and nothing else (44_replay_guard R126). -/
def verdict (c trkCounter : Byte) : CheckResult :=
  if c - trkCounter = 0 then .suspectedReplay else .clean

/-- The value CHECK gives `attack_flag` (44_replay_guard R128). -/
def CheckResult.attack : CheckResult → Bool
  | .clean => false
  | .suspectedReplay => true

/-- Numeric codes (30_encoding R76). -/
def FeedStatus.code : FeedStatus → Nat
  | .incomplete => 0
  | .complete => 1
  | .invalid => 2

/-- Numeric codes (30_encoding R76). -/
def CheckResult.code : CheckResult → Nat
  | .clean => 0
  | .suspectedReplay => 1

/-- Numeric codes (30_encoding R76). -/
def BusResp.code : BusResp → Nat
  | .ok => 0
  | .busy => 1
  | .busOff => 2

/-- Numeric codes (30_encoding R76): STOP is 0, ARM is 1 with its period. -/
def TimerCmd.code : TimerCmd → Nat × Option Half
  | .stop => (0, none)
  | .arm p => (1, some p)

end Sys2Proof.Machine
end

