-- ==== Sys2Proof/Machine/Operands.lean ====
section
/-! DEFINITION. The operands the block reads out of its own storage: the fields of the complete request frame in `buf`
(30_encoding R54 to R60, 41_command_dispatch R91, R92). -/

namespace Sys2Proof.Machine

/-- The fields of a request frame: transient, no state of the block (10_state R37). -/
structure Request where
  ext      : Bool
  id       : Ident
  payload  : List Byte
  interval : Half
deriving DecidableEq, Repr

/-- The identifier of a 16-bit container: its low 11 bits (30_encoding R58). -/
def stdIdent (idc : Half) : Ident := (idc.setWidth 11).setWidth 29

/-- The identifier of a 32-bit container: its low 29 bits (30_encoding R58). -/
def extIdent (idc : Word) : Ident := idc.setWidth 29

/-- The payload at `hdr` and the interval after it (30_encoding R55, R59, R60). A length byte above 7 is a fault and is not
clamped (41_command_dispatch R98). -/
def readBody (ext : Bool) (id : Ident) (len : Byte) (hdr : Nat) (c : Cells) : Except Fault Request := do
  if Config.maxCmdPayload < len.toNat then .error .dispatchLength
  else
    let payload ← readCells .buf c hdr len.toNat
    let hi ← readCell .buf c (hdr + len.toNat)
    let lo ← readCell .buf c (hdr + len.toNat + 1)
    .ok { ext := ext, id := id, payload := payload, interval := be16 hi lo }

/-- The fields of the complete frame in `buf` (41_command_dispatch R91). A mode byte other than 0x00 and 0x01 is a fault (R98). -/
def readRequest (c : Cells) : Except Fault Request := do
  let mode ← readCell .buf c 0
  if mode = 0x00#8 then
    let a ← readCell .buf c 1
    let b ← readCell .buf c 2
    let len ← readCell .buf c 3
    readBody false (stdIdent (be16 a b)) len 4 c
  else if mode = 0x01#8 then
    let a ← readCell .buf c 1
    let b ← readCell .buf c 2
    let d ← readCell .buf c 3
    let e ← readCell .buf c 4
    let len ← readCell .buf c 5
    readBody true (extIdent (be32 a b d e)) len 6 c
  else .error .dispatchMode

/-- The length of the request frame whose bytes are in `buf`, when its mode and length bytes are held and valid
(30_encoding R61, R62). -/
def frameTotal (c : Cells) : Option Nat :=
  match byteAt c 0 with
  | none => none
  | some mode =>
    if mode = 0x00#8 then
      match byteAt c 3 with
      | some len => if len.toNat ≤ Config.maxCmdPayload then some (6 + len.toNat) else none
      | none => none
    else if mode = 0x01#8 then
      match byteAt c 5 with
      | some len => if len.toNat ≤ Config.maxCmdPayload then some (8 + len.toNat) else none
      | none => none
    else none

end Sys2Proof.Machine
end

