-- ==== Sys2Proof/Machine/Assembler.lean ====
section
/-! DEFINITION. The Serial Frame Assembler (40_serial_assembler): FEED, and the rows REQ0, REQ1 and REQ_INVALID, whole request
frames on the serial input, which are the FEED of each of their bytes (30_encoding R77). -/

namespace Sys2Proof.Machine

/-- FEED returns a status: the one output it has (40_serial_assembler R79, R87). -/
def report (r : FeedStatus) (s : State) : State := emit (.feedStatus r) s

/-- `reset_buffer(); return Invalid` (40_serial_assembler R84, R85). -/
def rejectFrame (s : State) : State := report .invalid (resetBuffer s)

/-- The length check and the completion check (40_serial_assembler R81); `base` is 6 in mode 0 and 8 in mode 1. -/
def judgeLength (base : Nat) (len : Byte) (s : State) : State :=
  if Config.maxCmdPayload < len.toNat then rejectFrame s
  else if s.count = base + len.toNat then report .complete { s with ready := true }
  else report .incomplete s

/-- What FEED does after it has stored the byte while accumulating (40_serial_assembler R81, R83, R84). -/
def evaluate (s : State) : Except Fault State := do
  if s.count < Config.minFrame then .ok (report .incomplete s)
  else
    let mode ← readCell .buf s.buf 0
    if mode = 0x00#8 then
      let len ← readCell .buf s.buf 3
      .ok (judgeLength 6 len s)
    else if mode = 0x01#8 then
      let len ← readCell .buf s.buf 5
      .ok (judgeLength 8 len s)
    else .ok (rejectFrame s)

/-- FEED (40_serial_assembler R81), with the order of checks of 60_exceptions R146. -/
def feedByte (b : Byte) (s : State) : Except Fault State := do
  if s.ready then
    match s.cfg.feedWhileReady with
    | .drop => .ok (report .complete s)
    | .append =>
      if s.count = s.cfg.ceil then .ok (rejectFrame s)
      else
        let s' ← storeByte b s
        .ok (report .complete s')
  else if s.count = s.cfg.ceil then .ok (rejectFrame s)
  else
    let s' ← storeByte b s
    evaluate s'

/-- The FEED of each byte, in order (30_encoding R77, 20_memory R49). -/
def feedBytes : List Byte → State → Except Fault State
  | [], s => .ok s
  | b :: bs, s =>
    match feedByte b s with
    | .ok s' => feedBytes bs s'
    | .error f => .error f

/-- FEED (40_serial_assembler R79). -/
def execFeed (b : Byte) (s : State) : Host.Outcome State Fault Refusal := finish (feedByte b s)

/-- REQ0 (30_encoding R56, R77): the FEED of each byte of the frame (log 3). -/
def execReq0 (idc : Half) (payload : List Byte) (interval : Half) (s : State) : Host.Outcome State Fault Refusal :=
  finish (feedBytes (encode (.req0 idc payload interval)) s)

/-- REQ1 (30_encoding R57, R77): the FEED of each byte of the frame (log 3). -/
def execReq1 (idc : Word) (payload : List Byte) (interval : Half) (s : State) : Host.Outcome State Fault Refusal :=
  finish (feedBytes (encode (.req1 idc payload interval)) s)

/-- REQ_INVALID (30_encoding R62, 40_serial_assembler R84): the FEED of its six bytes (log 3). -/
def execReqInvalid (b0 b1 b2 b3 b4 b5 : Byte) (s : State) : Host.Outcome State Fault Refusal :=
  finish (feedBytes [b0, b1, b2, b3, b4, b5] s)

end Sys2Proof.Machine
end

