-- ==== Sys2Proof/Machine/Codec.lean ====
section
/-! DEFINITION. The Bus Frame Codec (43_bus_codec): two pure functions, and the rows ENCODE and DECODE that run one of them. -/

namespace Sys2Proof.Machine

/-- The identifier word (30_encoding R70, 43_bus_codec R113, R115). PRESUMED (log 11): the BXCAN layout. -/
def idWord (layout : IdWordLayout) (ext : Bool) (id : Ident) : Word :=
  match layout with
  | .bxcan =>
    if ext then ((id.setWidth 32) <<< 3) ||| 0x00000004#32
    else ((id.setWidth 11).setWidth 32) <<< 21

/-- The identifier and the extended flag of an identifier word (30_encoding R70, R71, 43_bus_codec R117). -/
def readIdWord (layout : IdWordLayout) (idw : Word) : Bool × Ident :=
  match layout with
  | .bxcan =>
    if idw.getLsbD 2 then (true, idw.extractLsb' 3 29)
    else (false, (idw.extractLsb' 21 11).setWidth 29)

/-- Four payload bytes from position `k` on as a data word, zero where there is no byte (30_encoding R69, 43_bus_codec R114). -/
def dataWord (data : List Byte) (k : Nat) : Word :=
  le32 (data.getD k 0) (data.getD (k + 1) 0) (data.getD (k + 2) 0) (data.getD (k + 3) 0)

/-- ENCODE (43_bus_codec R113): frame to wire words; the payload is clamped to 8 bytes (R116). -/
def encodeFrame (layout : IdWordLayout) (ext : Bool) (id : Ident) (data : List Byte) : Wire :=
  { idw := idWord layout ext id
    dlcw := BitVec.ofNat 32 (data.take Config.maxBusPayload).length
    dlw := dataWord (data.take Config.maxBusPayload) 0
    dhw := dataWord (data.take Config.maxBusPayload) 4 }

/-- The payload length of a length word, clamped to 8 (43_bus_codec R118). -/
def wireLength (dlcw : Word) : Nat := min (dlcw.extractLsb' 0 4).toNat Config.maxBusPayload

/-- DECODE (43_bus_codec R117): wire words to frame. -/
def decodeFrame (layout : IdWordLayout) (w : Wire) : BusFrame :=
  { ext := (readIdWord layout w.idw).1
    id := (readIdWord layout w.idw).2
    data := (leBytes32 w.dlw ++ leBytes32 w.dhw).take (wireLength w.dlcw) }

/-- ENCODE as a row of its own (log 4): the words are its result, and nothing else changes (43_bus_codec R121). -/
def execEncode (ext : Bool) (id : Ident) (data : List Byte) (s : State) : Host.Outcome State Fault Refusal :=
  .next (giveResult (.wire (encodeFrame s.cfg.idWordLayout ext id data)) s)

/-- DECODE as a row of its own (log 4): the frame is its result, and nothing else changes (43_bus_codec R121). -/
def execDecode (idw dlcw dlw dhw : Word) (s : State) : Host.Outcome State Fault Refusal :=
  .next (giveResult (.frame (decodeFrame s.cfg.idWordLayout ⟨idw, dlcw, dlw, dhw⟩)) s)

end Sys2Proof.Machine
end

