-- ==== Sys2Proof/Machine/Command.lean ====
section
/-! DEFINITION. The Command Dispatcher (41_command_dispatch): DISPATCH. -/

namespace Sys2Proof.Machine

/-- Single shot (41_command_dispatch R94): disarm, stop the timer, send once; STOP comes before the send (R99). -/
def singleShot (r : Request) (data : List Byte) (s : State) : State :=
  sendBusFrame (encodeFrame s.cfg.idWordLayout r.ext r.id data) (emitTimer .stop { s with repEnabled := false })

/-- Repeat (41_command_dispatch R95, R96): store the frame and the period, arm the timer, send nothing. -/
def armRepeat (r : Request) (data : List Byte) (s : State) : State :=
  emitTimer (.arm r.interval)
    { s with
      repExt := some r.ext
      repId := some r.id
      repLen := some data.length
      repData := writePrefix s.repData data
      repPeriod := some r.interval
      repEnabled := true }

/-- DISPATCH on the fields it read: append the sequence byte and advance the counter (41_command_dispatch R93), empty the
buffer (R97), then send or arm. -/
def runRequest (r : Request) (s : State) : State :=
  if r.interval = 0 then
    singleShot r (r.payload ++ [s.txCounter]) (resetBuffer { s with txCounter := s.txCounter + 1 })
  else
    armRepeat r (r.payload ++ [s.txCounter]) (resetBuffer { s with txCounter := s.txCounter + 1 })

/-- DISPATCH (41_command_dispatch R91): enabled only when `ready = 1`, else the run is stuck (30_encoding R74). -/
def dispatch (s : State) : Except Fault State := do
  if s.ready then
    let r ← readRequest s.buf
    .ok (runRequest r s)
  else .error .dispatchNotEnabled

/-- DISPATCH (41_command_dispatch R91). -/
def execDispatch (s : State) : Host.Outcome State Fault Refusal := finish (dispatch s)

end Sys2Proof.Machine
end

