-- ==== Sys2Proof/Machine/Guard.lean ====
section
/-! DEFINITION. The Replay Guard (44_replay_guard): CHECK, and the row that runs it. -/

namespace Sys2Proof.Machine

/-- Store what CHECK learned and set the attack flag from the verdict (44_replay_guard R123, R127, R128). -/
def track (id : Ident) (c : Byte) (r : CheckResult) (s : State) : State :=
  { s with trkValid := true, trkId := some id, trkCounter := some c, attackFlag := r.attack }

/-- CHECK (44_replay_guard R123). The identifier alone is compared (R124). -/
def check (id : Ident) (c : Byte) (s : State) : Except Fault (CheckResult × State) := do
  if s.trkValid then
    let last ← readValue .trkId s.trkId
    if id = last then
      let lastCounter ← readValue .trkCounter s.trkCounter
      .ok (verdict c lastCounter, track id c (verdict c lastCounter) s)
    else .ok (.clean, track id c .clean s)
  else .ok (.clean, track id c .clean s)

/-- CHECK as a row of its own (log 4): the tracker and the attack flag are written, the verdict is its result. Only BUS_RX
resets the flag (R128). -/
def execCheck (id : Ident) (c : Byte) (s : State) : Host.Outcome State Fault Refusal :=
  finish ((check id c s).map (fun r => giveResult (.verdict r.1) r.2))

end Sys2Proof.Machine
end

