-- ==== Sys2Proof/Machine/Inbound.lean ====
section
/-! DEFINITION. The Inbound Frame Processor (45_inbound_processor): BUS_RX, the rows WIRE_STD and WIRE_EXT (wire words arriving
on `bus_rx`) and the rows NTF0 and NTF1 (a notification leaving on `host_tx`). -/

namespace Sys2Proof.Machine

/-- BUS_RX on a decoded frame (45_inbound_processor R131): drop an empty one (R132), else split off the sequence byte (R133),
check it, read and reset the attack flag (44_replay_guard R128), notify whatever the verdict (R135). -/
def relay (f : BusFrame) (s : State) : Except Fault State := do
  match f.data.getLast? with
  | none => .ok s
  | some sq =>
    let r ← check f.id sq s
    .ok (notifyHost f.ext f.id f.data.dropLast r.2.attackFlag { r.2 with attackFlag := false })

/-- BUS_RX (45_inbound_processor R131): the port carries wire words, so decode first (conflict C4). -/
def busReceive (w : Wire) (s : State) : Except Fault State := relay (decodeFrame s.cfg.idWordLayout w) s

/-- BUS_RX (45_inbound_processor R131). -/
def execBusRx (idw dlcw dlw dhw : Word) (s : State) : Host.Outcome State Fault Refusal :=
  finish (busReceive ⟨idw, dlcw, dlw, dhw⟩ s)

/-- WIRE_STD (30_encoding R70, 10_state R33): the words of a standard frame arrive on `bus_rx` and start BUS_RX (log 3). -/
def execWireStd (idw dlcw dlw dhw : Word) (s : State) : Host.Outcome State Fault Refusal :=
  finish (busReceive ⟨idw, dlcw, dlw, dhw⟩ s)

/-- WIRE_EXT (30_encoding R70, 10_state R33): the words of an extended frame arrive on `bus_rx` and start BUS_RX (log 3). -/
def execWireExt (idw dlcw dlw dhw : Word) (s : State) : Host.Outcome State Fault Refusal :=
  finish (busReceive ⟨idw, dlcw, dlw, dhw⟩ s)

/-- NTF0 (30_encoding R64): the notification of a standard frame goes out on `host_tx`, whole (log 3). -/
def execNtf0 (id : StdIdent) (app : List Byte) (flag : Bool) (s : State) : Host.Outcome State Fault Refusal :=
  .next (notifyHost false (id.setWidth 29) app flag s)

/-- NTF1 (30_encoding R65): the notification of an extended frame goes out on `host_tx`, whole (log 3). -/
def execNtf1 (id : Ident) (app : List Byte) (flag : Bool) (s : State) : Host.Outcome State Fault Refusal :=
  .next (notifyHost true id app flag s)

end Sys2Proof.Machine
end

