-- ==== Sys2Proof/Machine/Reset.lean ====
section
/-! DEFINITION. RESET (70_reset_and_hazards R157). -/

namespace Sys2Proof.Machine

/-- RESET (70_reset_and_hazards R157): the elements of 10_state R17 take their reset values and nothing is emitted (R158). The
parameters, the events to come, the response script and what was emitted before are no state of the block and stay (log 16). -/
def resetBlock (s : State) : State :=
  { s with
    buf := List.replicate s.cfg.ceil none
    count := 0
    ready := false
    txCounter := s.cfg.txCounterInit
    repEnabled := false
    repExt := none
    repId := none
    repLen := none
    repData := List.replicate Config.maxBusPayload none
    repPeriod := none
    trkValid := false
    trkId := none
    trkCounter := none
    attackFlag := false
    tmrRunning := (match s.cfg.timerModel with | .internalMs => false | .external => s.tmrRunning)
    tmrPeriod := none
    tmrRemaining := none }

/-- RESET (70_reset_and_hazards R157). -/
def execReset (s : State) : Host.Outcome State Fault Refusal := .next (resetBlock s)

end Sys2Proof.Machine
end

