-- ==== Sys2Proof/Machine/Scheduler.lean ====
section
/-! DEFINITION. The Repeat Scheduler (42_repeat_scheduler): TICK, STOP and MS. -/

namespace Sys2Proof.Machine

/-- The position of the trailing sequence byte, `rep_len - 1`; a length of 0 has none and is a fault (log 14). -/
def trailingIndex (len : Nat) : Except Fault Nat :=
  match len with
  | 0 => .error (.badIndex .repData)
  | k + 1 => .ok k

/-- One tick (42_repeat_scheduler R102), of the `tick` event or of MS: nothing while Idle (R103); while Armed, rewrite the trailing byte, advance the counter,
send. The response is ignored (R104). -/
def tick (s : State) : Except Fault State := do
  if s.repEnabled then
    let len ← readValue .repLen s.repLen
    let k ← trailingIndex len
    let cells ← writeCell .repData s.repData k s.txCounter
    let data ← readCells .repData cells 0 len
    let ext ← readValue .repExt s.repExt
    let id ← readValue .repId s.repId
    .ok (sendBusFrame (encodeFrame s.cfg.idWordLayout ext id data)
      { s with repData := cells, txCounter := s.txCounter + 1 })
  else .ok s

/-- STOP (42_repeat_scheduler R105). -/
def stop (s : State) : State := emitTimer .stop { s with repEnabled := false }

/-- MS under `INTERNAL_MS` (42_repeat_scheduler R111). The decrement is 16 bits wide (log 13). -/
def millisecond (s : State) : Except Fault State := do
  if s.tmrRunning then
    let remaining ← readValue .tmrRemaining s.tmrRemaining
    if remaining - 1 = 0 then
      let period ← readValue .tmrPeriod s.tmrPeriod
      tick { s with tmrRemaining := some period }
    else .ok { s with tmrRemaining := some (remaining - 1) }
  else .ok s

/-- TICK, the `tick` event (42_repeat_scheduler R102). Under `INTERNAL_MS` the `tick` input is not used (R110), so that there
the event has no effect (log 12): ticks come only from MS. -/
def execTick (s : State) : Host.Outcome State Fault Refusal :=
  match s.cfg.timerModel with
  | .external => finish (tick s)
  | .internalMs => .next s

/-- STOP (42_repeat_scheduler R105). -/
def execStop (s : State) : Host.Outcome State Fault Refusal := .next (stop s)

/-- MS (42_repeat_scheduler R111): refused under `EXTERNAL` (30_encoding R74, 60_exceptions R155). -/
def execMs (s : State) : Host.Outcome State Fault Refusal :=
  match s.cfg.timerModel with
  | .external => .refused .msExternal
  | .internalMs => finish (millisecond s)

end Sys2Proof.Machine
end

