-- ==== Sys2Proof/Machine/Dispatch.lean ====
section
/-! DEFINITION. The meaning of every instruction, one arm per constructor. -/

namespace Sys2Proof.Machine

def exec (i : Instr) (s : State) : Host.Outcome State Fault Refusal :=
  match i with
  | .feed b => Sys2Proof.Machine.execFeed b s
  | .dispatch => Sys2Proof.Machine.execDispatch s
  | .tick => Sys2Proof.Machine.execTick s
  | .stop => Sys2Proof.Machine.execStop s
  | .busRx idw dlcw dlw dhw => Sys2Proof.Machine.execBusRx idw dlcw dlw dhw s
  | .reset => Sys2Proof.Machine.execReset s
  | .ms => Sys2Proof.Machine.execMs s
  | .req0 idc payload interval => Sys2Proof.Machine.execReq0 idc payload interval s
  | .req1 idc payload interval => Sys2Proof.Machine.execReq1 idc payload interval s
  | .reqInvalid b0 b1 b2 b3 b4 b5 => Sys2Proof.Machine.execReqInvalid b0 b1 b2 b3 b4 b5 s
  | .ntf0 id app flag => Sys2Proof.Machine.execNtf0 id app flag s
  | .ntf1 id app flag => Sys2Proof.Machine.execNtf1 id app flag s
  | .wireStd idw dlcw dlw dhw => Sys2Proof.Machine.execWireStd idw dlcw dlw dhw s
  | .wireExt idw dlcw dlw dhw => Sys2Proof.Machine.execWireExt idw dlcw dlw dhw s
  | .encode ext id data => Sys2Proof.Machine.execEncode ext id data s
  | .decode idw dlcw dlw dhw => Sys2Proof.Machine.execDecode idw dlcw dlw dhw s
  | .check id c => Sys2Proof.Machine.execCheck id c s

end Sys2Proof.Machine
end

