-- ==== Sys2Proof/Machine/Fetch.lean ====
section
/-! DEFINITION. Which operation happens next (10_state R33, R34): the next instruction of the events to come, or, when none is
left, the internal DISPATCH if a frame waits. -/

namespace Sys2Proof.Machine

/-- What the machine does next. -/
inductive Fetched where
  /-- The run is refused. -/
  | stop (r : Refusal)
  /-- No operation is enabled: the state is held (60_exceptions R154). -/
  | idle
  /-- Run the instruction on the state, whose events to come no longer hold it. -/
  | run (i : Instr) (s : State)
deriving DecidableEq, Repr

/-- The next operation. A ceiling below 15 is refused before anything runs (00_scope R7), and so is a stream with a byte that
belongs to no record (30_encoding R74; log 6). With no event to come, DISPATCH is the only enabled operation if `ready = 1`,
and the block takes it by itself (10_state R34; log 2). -/
def fetch (s : State) : Fetched :=
  if s.cfg.ceil < Config.minCeil then .stop .ceilTooSmall
  else
    match s.input with
    | [] => if s.ready then .run .dispatch s else .idle
    | _ :: _ =>
      if validStream s.inputFmt s.input then
        match Sys2Proof.decode s.inputFmt s.input with
        | some (i, rest) => .run i { s with input := rest }
        | none => .stop .badStream
      else .stop .badStream

/-- Make the instruction of a table word the one event to come (log 5). -/
def placeTableWord (s : State) (nbits w : Nat) : State :=
  { s with inputFmt := tableFormat nbits w, input := tableInput nbits w }

end Sys2Proof.Machine
end

