-- ==== Sys2Proof/Machine/Step.lean ====
section
/-! DEFINITION. One step of the block: one operation, whole and atomic (20_memory R47, R48). -/

namespace Sys2Proof.Machine

/-- One operation of the run's total order (20_memory R48). -/
def step (s : State) : Host.Outcome State Fault Refusal :=
  match fetch s with
  | .stop r => .refused r
  | .idle => .next s
  | .run i s' => exec i s'

/-- The state with the instruction of a table word as its next event (log 5). -/
def State.withFetchWord (s : State) (nbits w : Nat) : State := placeTableWord s nbits w

end Sys2Proof.Machine
end

