-- ==== Sys2Proof/Safety.lean ====
section
/-! DEFINITION. The states a run of the block can be in (10_state R29, R30), and what a safe step is (60_exceptions R155). -/

namespace Sys2Proof.Machine

/-- The assembler (10_state R19, R29 items 1 and 2, R30): the array has `CEIL` bytes, every received byte is held, a complete
frame is complete and valid, and an incomplete one is short of its length. -/
structure AssemblerInv (s : State) : Prop where
  bufLength  : s.buf.length = s.cfg.ceil
  countLe    : s.count ≤ s.cfg.ceil
  held       : ∀ k, k < s.count → (byteAt s.buf k).isSome = true
  complete   : s.ready = true →
    ∃ total, frameTotal s.buf = some total ∧ Config.minFrame ≤ s.count ∧ total ≤ s.count ∧
      (s.cfg.feedWhileReady = .drop → s.count = total)
  incomplete : s.ready = false →
    s.count ≤ 14 ∧ (Config.minFrame ≤ s.count → ∃ total, frameTotal s.buf = some total ∧ s.count < total)

/-- The Repeat Scheduler (10_state R23, R29 item 3, R30): an armed frame is held whole, with 1 to 8 bytes and a period of at
least 1, and a stored standard identifier is 11 bits wide. -/
structure SchedulerInv (s : State) : Prop where
  dataLength : s.repData.length = Config.maxBusPayload
  armed      : s.repEnabled = true →
    ∃ ext id len period, s.repExt = some ext ∧ s.repId = some id ∧ s.repLen = some len ∧ s.repPeriod = some period ∧
      1 ≤ len ∧ len ≤ Config.maxBusPayload ∧ period ≠ 0 ∧ ∀ k, k < len → (byteAt s.repData k).isSome = true
  stdWidth   : ∀ id, s.repExt = some false → s.repId = some id → id.toNat < 2 ^ 11

/-- The Replay Guard (10_state R28, R29 item 5, R30): a tracked stream has an identifier and a counter, and the attack flag is
clear between operations. -/
structure GuardInv (s : State) : Prop where
  tracked   : s.trkValid = true → ∃ id c, s.trkId = some id ∧ s.trkCounter = some c
  flagClear : s.attackFlag = false

/-- The timer reference model (10_state R22, 42_repeat_scheduler R110): it runs exactly while a frame is armed, at the armed
period, and never reaches 0 between operations; under `EXTERNAL` it does not run. -/
structure TimerInv (s : State) : Prop where
  external : s.cfg.timerModel = .external → s.tmrRunning = false
  together : s.cfg.timerModel = .internalMs → s.tmrRunning = s.repEnabled
  counting : s.tmrRunning = true →
    ∃ period remaining, s.tmrPeriod = some period ∧ s.repPeriod = some period ∧ s.tmrRemaining = some remaining ∧
      remaining ≠ 0 ∧ remaining.toNat ≤ period.toNat

/-- The invariant of 10_state R29 with the held values of R30, for an admitted ceiling (00_scope R7). -/
structure BlockInv (s : State) : Prop where
  ceil      : s.cfg.Admitted
  assembler : AssemblerInv s
  scheduler : SchedulerInv s
  guard     : GuardInv s
  timer     : TimerInv s

/-- A step is safe when it goes on, is refused, or is the stuck DISPATCH: the block itself never faults (60_exceptions R155). -/
def SafeOutcome : Host.Outcome State Fault Refusal → Prop
  | .next _ => True
  | .refused _ => True
  | .fault f => f = .dispatchNotEnabled

end Sys2Proof.Machine
end

