-- ==== Sys2Proof/Certificates/Slice0/Obligations.lean ====
section
/-! DEFINITION. The statements for the provers. The layouts a statement speaks of are written out here from the spec, not taken
from the model's own encoder, so that a statement says what the bytes are. -/

namespace Sys2Proof.Machine

/-- Operations in order, stopping at the first that does not go on (20_memory R48). -/
def execAll : List Instr → State → Host.Outcome State Fault Refusal
  | [], s => .next s
  | i :: is, s =>
    match exec i s with
    | .next t => execAll is t
    | .fault f => .fault f
    | .refused r => .refused r

/-- The statuses of `n` FEEDs that return Incomplete and one more that returns `last` (10_state R36). -/
def statuses (n : Nat) (last : FeedStatus) : List Output :=
  List.replicate n (.feedStatus .incomplete) ++ [.feedStatus last]

/-- The bytes of a REQ0 frame (30_encoding R56). -/
def req0Bytes (idc : Half) (payload : List Byte) (interval : Half) : List Byte :=
  [0x00#8, idc.extractLsb' 8 8, idc.extractLsb' 0 8, BitVec.ofNat 8 payload.length] ++ payload
    ++ [interval.extractLsb' 8 8, interval.extractLsb' 0 8]

/-- The bytes of a REQ1 frame (30_encoding R57). -/
def req1Bytes (idc : Word) (payload : List Byte) (interval : Half) : List Byte :=
  [0x01#8, idc.extractLsb' 24 8, idc.extractLsb' 16 8, idc.extractLsb' 8 8, idc.extractLsb' 0 8,
    BitVec.ofNat 8 payload.length] ++ payload ++ [interval.extractLsb' 8 8, interval.extractLsb' 0 8]

/-- The bytes of an NTF0 frame (30_encoding R64). -/
def ntf0Bytes (id : Ident) (app : List Byte) (flag : Bool) : List Byte :=
  [0x00#8, (id.setWidth 16).extractLsb' 8 8, id.extractLsb' 0 8, BitVec.ofNat 8 app.length] ++ app
    ++ [if flag then 0x01#8 else 0x00#8]

/-- The bytes of an NTF1 frame (30_encoding R65). -/
def ntf1Bytes (id : Ident) (app : List Byte) (flag : Bool) : List Byte :=
  [0x01#8, (id.setWidth 32).extractLsb' 24 8, id.extractLsb' 16 8, id.extractLsb' 8 8, id.extractLsb' 0 8,
    BitVec.ofNat 8 app.length] ++ app ++ [if flag then 0x01#8 else 0x00#8]

/-- The response the next send draws (30_encoding R74, default `ok`; log 7). -/
def drawnResp (s : State) : BusResp := s.script.headD .ok

/-- `tmr_running` after the block emitted `timer_ctl(STOP)` (42_repeat_scheduler R110). -/
def stoppedTimer (s : State) : Bool :=
  match s.cfg.timerModel with
  | .external => s.tmrRunning
  | .internalMs => false

/-- The state `s` after a single-shot DISPATCH of the frame (41_command_dispatch R91, R94). -/
def afterSingleShot (ext : Bool) (id : Ident) (payload : List Byte) (s : State) : State :=
  { s with
    txCounter := s.txCounter + 1
    count := 0
    ready := false
    repEnabled := false
    tmrRunning := stoppedTimer s
    script := s.script.tail
    out := s.out ++ [.timerCtl .stop,
      .busTx (encodeFrame s.cfg.idWordLayout ext id (payload ++ [s.txCounter])) (drawnResp s)] }

/-- The state `s` after a repeat DISPATCH of the frame (41_command_dispatch R91, R95). -/
def afterRepeat (ext : Bool) (id : Ident) (payload : List Byte) (interval : Half) (s : State) : State :=
  { s with
    txCounter := s.txCounter + 1
    count := 0
    ready := false
    repEnabled := true
    repExt := some ext
    repId := some id
    repLen := some (payload.length + 1)
    repData := (payload ++ [s.txCounter]).map some ++ s.repData.drop (payload.length + 1)
    repPeriod := some interval
    tmrRunning := (match s.cfg.timerModel with | .external => s.tmrRunning | .internalMs => true)
    tmrPeriod := (match s.cfg.timerModel with | .external => s.tmrPeriod | .internalMs => some interval)
    tmrRemaining := (match s.cfg.timerModel with | .external => s.tmrRemaining | .internalMs => some interval)
    out := s.out ++ [.timerCtl (.arm interval)] }

/-- The stored frame: the extended flag, the identifier, and `lead` with one trailing byte before `rest` (10_state R23). -/
def Stored (s : State) (ext : Bool) (id : Ident) (lead : List Byte) (old : Option Byte) (rest : Cells) : Prop :=
  s.repExt = some ext ∧ s.repId = some id ∧ s.repLen = some (lead.length + 1) ∧ s.repData = lead.map some ++ old :: rest

/-- The state `s` after one tick of that stored frame while Armed (42_repeat_scheduler R102). -/
def afterArmedTick (ext : Bool) (id : Ident) (lead : List Byte) (rest : Cells) (s : State) : State :=
  { s with
    repData := lead.map some ++ some s.txCounter :: rest
    txCounter := s.txCounter + 1
    script := s.script.tail
    out := s.out ++ [.busTx (encodeFrame s.cfg.idWordLayout ext id (lead ++ [s.txCounter])) (drawnResp s)] }

/-- The operations tick the stored frame exactly twice: the same identifier, extended flag and leading bytes, and trailing bytes
that differ by one modulo 256 (42_repeat_scheduler R107). -/
def TickTwice (ops : List Instr) (s : State) : Prop :=
  ∃ (t : State) (ext : Bool) (id : Ident) (lead : List Byte) (r1 r2 : BusResp),
    execAll ops s = .next t ∧ s.repExt = some ext ∧ s.repId = some id ∧ s.repLen = some (lead.length + 1) ∧
    lead.map some = s.repData.take lead.length ∧ t.repEnabled = true ∧ t.txCounter = s.txCounter + 2 ∧
    t.out = s.out ++
      [.busTx (encodeFrame s.cfg.idWordLayout ext id (lead ++ [s.txCounter])) r1,
        .busTx (encodeFrame s.cfg.idWordLayout ext id (lead ++ [s.txCounter + 1])) r2]

/-- `buf` begins with these bytes (10_state R18). -/
def HoldsFrame (s : State) (bytes : List Byte) : Prop := ∃ rest, s.buf = bytes.map some ++ rest

/-- The state `s` after CHECK stored its operands (44_replay_guard R123). -/
def afterCheck (id : Ident) (c : Byte) (r : CheckResult) (s : State) : State :=
  { s with
    trkValid := true
    trkId := some id
    trkCounter := some c
    attackFlag := decide (r = .suspectedReplay)
    results := s.results ++ [.verdict r] }

/-- The frame is on the tracked identifier with the tracked counter (44_replay_guard R126). -/
def Replays (id : Ident) (c : Byte) (s : State) : Prop :=
  s.trkValid = true ∧ s.trkId = some id ∧ s.trkCounter = some c

/-- A tracked stream has an identifier and a counter (10_state R30). -/
def Tracked (s : State) : Prop := s.trkValid = true → ∃ id c, s.trkId = some id ∧ s.trkCounter = some c

/-- The state `s` after a notified BUS_RX (45_inbound_processor R131). -/
def afterRelay (ext : Bool) (id : Ident) (app : List Byte) (sq : Byte) (flag : Bool) (s : State) : State :=
  { s with
    trkValid := true
    trkId := some id
    trkCounter := some sq
    attackFlag := false
    out := s.out ++ [.hostTx (if ext then ntf1Bytes id app flag else ntf0Bytes id app flag)] }

/-- Byte `i` of the data words (30_encoding R69). -/
def wireByte (dlw dhw : Word) (i : Nat) : Byte :=
  if i < 4 then dlw.extractLsb' (8 * i) 8 else dhw.extractLsb' (8 * (i - 4)) 8

/-- The last payload byte the words carry, for a length of 1 to 8 (30_encoding R69, R72). -/
def lastWireByte (w : Wire) : Byte := wireByte w.dlw w.dhw ((w.dlcw.extractLsb' 0 4).toNat - 1)

/-- How many of the operations, run in order, increment the counter: those that leave it another byte than before, a run
without RESET being meant (10_state R21). -/
def incrementsTaken : List Instr → State → Nat
  | [], _ => 0
  | i :: is, s =>
    match exec i s with
    | .next t => (if t.txCounter = s.txCounter then 0 else 1) + incrementsTaken is t
    | .fault _ => 0
    | .refused _ => 0

/-- The canonical form of a tuple (43_bus_codec R120): ignored bits cleared, length clamped, unused bytes zeroed. -/
def Canonical (w c : Wire) : Prop :=
  c.idw = (if w.idw.getLsbD 2 then w.idw &&& 0xFFFFFFFC#32 else w.idw &&& 0xFFE00000#32) ∧
  c.dlcw = BitVec.ofNat 32 (min (w.dlcw.extractLsb' 0 4).toNat 8) ∧
  ∀ i, i < 8 → wireByte c.dlw c.dhw i =
    if i < min (w.dlcw.extractLsb' 0 4).toNat 8 then wireByte w.dlw w.dhw i else 0x00#8

/-- The two tuples differ only in bits DECODE ignores (43_bus_codec R119). -/
def SameUsedBits (v w : Wire) : Prop :=
  v.idw.getLsbD 2 = w.idw.getLsbD 2 ∧
  (∀ i, 21 ≤ i → i < 32 → v.idw.getLsbD i = w.idw.getLsbD i) ∧
  (v.idw.getLsbD 2 = true → ∀ i, 3 ≤ i → i < 21 → v.idw.getLsbD i = w.idw.getLsbD i) ∧
  (∀ i, i < 4 → v.dlcw.getLsbD i = w.dlcw.getLsbD i) ∧
  ∀ i, i < min (v.dlcw.extractLsb' 0 4).toNat 8 → wireByte v.dlw v.dhw i = wireByte w.dlw w.dhw i

/-- Nothing but the assembler's elements and its status output differs (40_serial_assembler R79, R87). -/
def OnlyAssembler (s t : State) : Prop :=
  ∃ rs : List FeedStatus,
    t = { s with buf := t.buf, count := t.count, ready := t.ready, out := s.out ++ rs.map .feedStatus }

/-- Nothing but the Replay Guard's elements and the emissions differ (45_inbound_processor R136). -/
def OnlyGuard (s t : State) : Prop :=
  t = { s with
    trkValid := t.trkValid, trkId := t.trkId, trkCounter := t.trkCounter, attackFlag := t.attackFlag, out := t.out }

end Sys2Proof.Machine

open Sys2Proof Sys2Proof.Machine

/-! Encodings and fetch. -/

/-- Every operand bit of every encoding is kept: the decoder reads back what the encoder wrote (30_encoding sections 1 to 4). -/
def Obligations.DecodeReadsBackEveryEncoding : Prop :=
  ∀ (i : Instr) (rest : List Byte), i.wellFormed = true → i.format ≠ .internal →
    decode i.format (encode i ++ rest) = some (i, rest)

/-- What the decoder reads is well-formed, of the format asked for, and encodes to the bytes read: each byte string has one
meaning (30_encoding sections 1 to 4). -/
def Obligations.DecodedBytesAreTheEncoding : Prop :=
  ∀ (fmt : Format) (bs rest : List Byte) (i : Instr), decode fmt bs = some (i, rest) →
    i.wellFormed = true ∧ i.format = fmt ∧ encode i ++ rest = bs

/-- Words written out from 30_encoding R56, R57, R64, R70 and R74 decode to what they stand for. -/
def Obligations.WrittenOutWordsDecode : Prop :=
  decode .evt [0x01, 0xAA] = some (.feed 0xAA, []) ∧
  decode .evt [0x05, 0x00, 0x00, 0x60, 0x24, 0x03, 0x00, 0x00, 0x00, 0xAA, 0xBB, 0x00, 0x00, 0x00, 0x00, 0x00, 0x00] =
    some (.busRx 0x24600000 0x00000003 0x0000BBAA 0x00000000, []) ∧
  decode .evt [0x08] = none ∧
  decode .req [0x00, 0x01, 0x23, 0x02, 0xAA, 0xBB, 0x00, 0x05] = some (.req0 0x0123 [0xAA, 0xBB] 5, []) ∧
  decode .req [0x01, 0x18, 0xDA, 0xF1, 0x10, 0x01, 0x7E, 0x03, 0xE8] = some (.req1 0x18DAF110 [0x7E] 1000, []) ∧
  decode .req [0x02, 0x00, 0x00, 0x00, 0x00, 0x00] = some (.reqInvalid 0x02 0x00 0x00 0x00 0x00 0x00, []) ∧
  decode .ntf [0x00, 0x01, 0x00, 0x01, 0xAA, 0x01] = some (.ntf0 0x100 [0xAA] true, []) ∧
  decode .wire [0x04, 0x08, 0x00, 0x00, 0x01, 0x00, 0x00, 0x00, 0x09, 0x00, 0x00, 0x00, 0x00, 0x00, 0x00, 0x00] =
    some (.wireExt 0x00000804 0x00000001 0x00000009 0x00000000, [])

/-- A stream with an op byte that is none is refused whole, wherever the byte stands (30_encoding R74; refusing
it at the first step is read from R74, log 6). -/
def Obligations.BadOpByteRefusesTheWholeStream : Prop :=
  ∀ (s : State) (records : List Instr) (op : Byte) (rest : List Byte),
    s.cfg.Admitted → s.inputFmt = .evt → (∀ i ∈ records, i.format = .evt) →
    (op = 0x00#8 ∨ 8 ≤ op.toNat) → s.input = (records.map encode).flatten ++ op :: rest →
    step s = .refused .badStream

/-- A step runs the instruction that the decoder reads from the front of a valid stream, on the state whose events to come no
longer hold it. -/
def Obligations.StepRunsTheDecodedInstruction : Prop :=
  ∀ (s : State) (i : Instr) (rest : List Byte),
    s.cfg.Admitted → s.input ≠ [] → validStream s.inputFmt s.input = true → decode s.inputFmt s.input = some (i, rest) →
    step s = exec i { s with input := rest }

/-- Records are run in their order, one a step: arrival order is kept (20_memory R48, R49). -/
def Obligations.StepRunsRecordsInOrder : Prop :=
  ∀ (s : State) (i : Instr) (records : List Instr),
    s.cfg.Admitted → i.wellFormed = true → i.format = s.inputFmt → i.format ≠ .internal →
    (∀ j ∈ records, j.wellFormed = true ∧ j.format = s.inputFmt) →
    s.input = encode i ++ (records.map encode).flatten →
    step s = exec i { s with input := (records.map encode).flatten }

/-- With no event to come the block takes DISPATCH by itself if a frame waits, and else holds its state. That an empty stream
is when DISPATCH is taken is the model's choice (log 2). -/
def Obligations.EmptyInputDispatchesOrIdles : Prop :=
  ∀ s : State, s.cfg.Admitted → s.input = [] →
    (s.ready = true → step s = exec .dispatch s) ∧ (s.ready = false → step s = .next s)

/-- A table word placed where the step fetches is run by the next step (the model's stand-in for loading a program, log 2). -/
def Obligations.PlacedTableWordRuns : Prop :=
  ∀ (s : State) (nbits w : Nat) (i : Instr), s.cfg.Admitted → decodeTableWord nbits w = some i →
    step (s.withFetchWord nbits w) = exec i { s with inputFmt := i.format, input := [] }

/-- A ceiling below 15 is refused before anything runs (00_scope R7). -/
def Obligations.SmallCeilingIsRefused : Prop :=
  ∀ s : State, s.cfg.ceil < 15 → step s = .refused .ceilTooSmall

/-! Reset. -/

/-- RESET gives every element of the block its reset value and emits nothing (70_reset_and_hazards R157, R158). -/
def Obligations.ResetGivesTheResetValues : Prop :=
  ∀ s : State, ∃ t, exec .reset s = .next t ∧
    t.count = 0 ∧ t.ready = false ∧ t.txCounter = s.cfg.txCounterInit ∧ t.repEnabled = false ∧ t.trkValid = false ∧
    t.attackFlag = false ∧ (s.cfg.timerModel = .internalMs → t.tmrRunning = false) ∧
    t.buf = List.replicate s.cfg.ceil none ∧ t.repExt = none ∧ t.repId = none ∧ t.repLen = none ∧
    t.repData = List.replicate 8 none ∧ t.repPeriod = none ∧ t.trkId = none ∧ t.trkCounter = none ∧
    t.tmrPeriod = none ∧ t.tmrRemaining = none ∧ t.out = s.out

/-- RESET leaves what is no state of the block: the parameters, the events to come, the response script, the results, and the
reference timer's running bit where there is no reference timer. That these fields stay is the model's choice (logs 13, 16). -/
def Obligations.ResetLeavesWhatIsNotTheBlocks : Prop :=
  ∀ s : State, ∃ t, exec .reset s = .next t ∧ t.cfg = s.cfg ∧ t.inputFmt = s.inputFmt ∧ t.input = s.input ∧
    t.script = s.script ∧ t.results = s.results ∧ (s.cfg.timerModel = .external → t.tmrRunning = s.tmrRunning)

/-- Power-on is the state after RESET (70_reset_and_hazards R159): RESET changes nothing in it, for every parameter choice. -/
def Obligations.PowerOnIsTheStateAfterReset : Prop :=
  (∀ c : Config, exec .reset (State.resetWith c) = .next (State.resetWith c)) ∧
  State.reset = State.resetWith Config.default

/-- The invariant holds after reset, for every admitted parameter choice. -/
def Obligations.InvariantHoldsAtReset : Prop :=
  ∀ c : Config, c.Admitted → BlockInv (State.resetWith c)

/-! FEED and the request rows. -/

/-- A byte fed while a complete frame waits, under DROP: discarded, and FEED returns Complete (40_serial_assembler R86). -/
def Obligations.FeedWhileReadyDrops : Prop :=
  ∀ (s : State) (b : Byte), s.ready = true → s.cfg.feedWhileReady = .drop →
    exec (.feed b) s = .next { s with out := s.out ++ [.feedStatus .complete] }

/-- A byte fed while a complete frame waits, under APPEND and below the ceiling: stored after the frame, and FEED returns
Complete (40_serial_assembler R86). -/
def Obligations.FeedWhileReadyAppends : Prop :=
  ∀ (s : State) (b : Byte), s.ready = true → s.cfg.feedWhileReady = .append → s.buf.length = s.cfg.ceil →
    s.count < s.cfg.ceil →
    exec (.feed b) s = .next { s with
      buf := s.buf.set s.count (some b), count := s.count + 1, out := s.out ++ [.feedStatus .complete] }

/-- A byte that arrives with `count = CEIL` empties the buffer, is discarded and returns Invalid, also when a frame waits under
APPEND (40_serial_assembler R85). -/
def Obligations.FeedAtTheCeilingResets : Prop :=
  ∀ (s : State) (b : Byte), s.count = s.cfg.ceil → ¬ (s.ready = true ∧ s.cfg.feedWhileReady = .drop) →
    exec (.feed b) s = .next { s with count := 0, ready := false, out := s.out ++ [.feedStatus .invalid] }

/-- FEED while accumulating, by the bytes then held at positions 0, 3 and 5: fewer than six bytes, nothing is evaluated and it
returns Incomplete; an invalid mode or length empties the buffer and returns Invalid; the last byte of the frame sets `ready`
and returns Complete; else Incomplete (40_serial_assembler R81 to R84). -/
def Obligations.FeedWhileAccumulating : Prop :=
  ∀ (s : State) (b : Byte), s.ready = false → s.buf.length = s.cfg.ceil → s.count < s.cfg.ceil →
    (s.count + 1 < 6 → exec (.feed b) s = .next { s with
      buf := s.buf.set s.count (some b), count := s.count + 1, out := s.out ++ [.feedStatus .incomplete] }) ∧
    ∀ b0 b3 b5 : Byte, 6 ≤ s.count + 1 →
      (s.buf.set s.count (some b))[0]? = some (some b0) → (s.buf.set s.count (some b))[3]? = some (some b3) →
      (s.buf.set s.count (some b))[5]? = some (some b5) →
      ((¬ (b0 = 0x00#8 ∨ b0 = 0x01#8) ∨ (b0 = 0x00#8 ∧ 7 < b3.toNat) ∨ (b0 = 0x01#8 ∧ 7 < b5.toNat)) →
        exec (.feed b) s = .next { s with
          buf := s.buf.set s.count (some b), count := 0, ready := false, out := s.out ++ [.feedStatus .invalid] }) ∧
      (((b0 = 0x00#8 ∧ b3.toNat ≤ 7 ∧ s.count + 1 = 6 + b3.toNat) ∨
          (b0 = 0x01#8 ∧ b5.toNat ≤ 7 ∧ s.count + 1 = 8 + b5.toNat)) →
        exec (.feed b) s = .next { s with
          buf := s.buf.set s.count (some b), count := s.count + 1, ready := true,
          out := s.out ++ [.feedStatus .complete] }) ∧
      (((b0 = 0x00#8 ∧ b3.toNat ≤ 7 ∧ s.count + 1 ≠ 6 + b3.toNat) ∨
          (b0 = 0x01#8 ∧ b5.toNat ≤ 7 ∧ s.count + 1 ≠ 8 + b5.toNat)) →
        exec (.feed b) s = .next { s with
          buf := s.buf.set s.count (some b), count := s.count + 1, out := s.out ++ [.feedStatus .incomplete] })

/-- In every state of the invariant FEED completes, returns exactly one status, and writes nothing but `buf[count]`, `count` and
`ready` (40_serial_assembler R79, R87). -/
def Obligations.FeedCompletesAndWritesOnlyTheAssembler : Prop :=
  ∀ (s : State) (b : Byte), BlockInv s → ∃ t r, exec (.feed b) s = .next t ∧
    t = { s with buf := t.buf, count := t.count, ready := t.ready, out := s.out ++ [.feedStatus r] } ∧
    ∀ k, k ≠ s.count → t.buf[k]? = s.buf[k]?

/-- No FEED changes the fields of a frame that waits: whichever parameter is chosen, as long as it still waits, its bytes are
the same (40_serial_assembler R86, 70_reset_and_hazards R162). -/
def Obligations.FeedKeepsTheWaitingFrame : Prop :=
  ∀ (s t : State) (b : Byte) (total : Nat), BlockInv s → s.ready = true → frameTotal s.buf = some total →
    exec (.feed b) s = .next t → t.ready = true →
    frameTotal t.buf = some total ∧ ∀ k, k < total → t.buf[k]? = s.buf[k]?

/-- The request rows are the FEED of each byte of the frame, in order (30_encoding R77 for REQ0 and REQ1; for REQ_INVALID the
model's choice, log 3). -/
def Obligations.RequestRowsFeedEachByte : Prop :=
  (∀ (s : State) (idc : Half) (payload : List Byte) (interval : Half),
    exec (.req0 idc payload interval) s = execAll ((req0Bytes idc payload interval).map .feed) s) ∧
  (∀ (s : State) (idc : Word) (payload : List Byte) (interval : Half),
    exec (.req1 idc payload interval) s = execAll ((req1Bytes idc payload interval).map .feed) s) ∧
  ∀ (s : State) (b0 b1 b2 b3 b4 b5 : Byte),
    exec (.reqInvalid b0 b1 b2 b3 b4 b5) s = execAll ([b0, b1, b2, b3, b4, b5].map .feed) s

/-- The request rows complete in every state of the invariant, keep it, and touch only the assembler (20_memory R47; one step for
the whole frame is the model's choice, log 3). -/
def Obligations.RequestRowsComplete : Prop :=
  ∀ (s : State) (i : Instr), BlockInv s → i.format = .req → ∃ t, exec i s = .next t ∧ BlockInv t ∧ OnlyAssembler s t

/-- A whole valid REQ0 frame fed to an empty buffer returns Incomplete for every byte but the last and Complete for the last,
and then stands in `buf`, whatever its identifier, payload and interval are (40_serial_assembler R82, R83, R89; 30_encoding
R56; one step for the whole frame: log 3). -/
def Obligations.Req0FillsTheEmptyBuffer : Prop :=
  ∀ (s : State) (idc : Half) (payload : List Byte) (interval : Half),
    BlockInv s → s.count = 0 → s.ready = false → payload.length ≤ 7 →
    exec (.req0 idc payload interval) s = .next { s with
      buf := (req0Bytes idc payload interval).map some ++ s.buf.drop (6 + payload.length)
      count := 6 + payload.length
      ready := true
      out := s.out ++ statuses (5 + payload.length) .complete }

/-- A whole valid REQ1 frame fed to an empty buffer returns Incomplete for every byte but the last and Complete for the last,
and then stands in `buf`, whatever its identifier, payload and interval are (40_serial_assembler R82, R83, R89; 30_encoding
R57; one step for the whole frame: log 3). -/
def Obligations.Req1FillsTheEmptyBuffer : Prop :=
  ∀ (s : State) (idc : Word) (payload : List Byte) (interval : Half),
    BlockInv s → s.count = 0 → s.ready = false → payload.length ≤ 7 →
    exec (.req1 idc payload interval) s = .next { s with
      buf := (req1Bytes idc payload interval).map some ++ s.buf.drop (8 + payload.length)
      count := 8 + payload.length
      ready := true
      out := s.out ++ statuses (7 + payload.length) .complete }

/-- An invalid request frame fed to an empty buffer returns Incomplete five times and Invalid on its sixth byte, and leaves the
buffer empty, so that the next byte is byte 0 of a new frame (40_serial_assembler R84, R88; 30_encoding R62; one step for the six bytes is the
model's choice, log 3). -/
def Obligations.InvalidRequestLeavesTheBufferEmpty : Prop :=
  ∀ (s : State) (b0 b1 b2 b3 b4 b5 : Byte), BlockInv s → s.count = 0 → s.ready = false →
    (¬ (b0 = 0x00#8 ∨ b0 = 0x01#8) ∨ (b0 = 0x00#8 ∧ 7 < b3.toNat) ∨ (b0 = 0x01#8 ∧ 7 < b5.toNat)) →
    exec (.reqInvalid b0 b1 b2 b3 b4 b5) s = .next { s with
      buf := [b0, b1, b2, b3, b4, b5].map some ++ s.buf.drop 6
      count := 0
      ready := false
      out := s.out ++ statuses 5 .invalid }

/-! DISPATCH. -/

/-- DISPATCH while `ready = 0` is not enabled: the run is stuck (30_encoding R74). -/
def Obligations.DispatchIsStuckWhenNothingWaits : Prop :=
  ∀ s : State, s.ready = false → exec .dispatch s = .fault .dispatchNotEnabled

/-- DISPATCH of a frame with interval 0: the identifier is the container's low bits, the payload takes the counter's value as
its last byte and the counter advances, the buffer is emptied, any repeat is disarmed, and `timer_ctl(STOP)` is followed by
exactly one send, whose response changes nothing (41_command_dispatch R92, R93, R94, R97, R99). -/
def Obligations.DispatchSendsASingleShotOnce : Prop :=
  (∀ (s : State) (idc : Half) (payload : List Byte), s.ready = true → payload.length ≤ 7 →
    HoldsFrame s (req0Bytes idc payload 0) →
    exec .dispatch s = .next (afterSingleShot false ((idc.setWidth 11).setWidth 29) payload s)) ∧
  ∀ (s : State) (idc : Word) (payload : List Byte), s.ready = true → payload.length ≤ 7 →
    HoldsFrame s (req1Bytes idc payload 0) →
    exec .dispatch s = .next (afterSingleShot true (idc.setWidth 29) payload s)

/-- DISPATCH of a frame with a nonzero interval stores the frame and the period, replacing whatever was stored, arms the timer
and sends nothing; the counter advances too (41_command_dispatch R92, R93, R95, R96, R97). -/
def Obligations.DispatchArmsARepeat : Prop :=
  (∀ (s : State) (idc : Half) (payload : List Byte) (interval : Half), s.ready = true → payload.length ≤ 7 →
    interval ≠ 0 → HoldsFrame s (req0Bytes idc payload interval) →
    exec .dispatch s = .next (afterRepeat false ((idc.setWidth 11).setWidth 29) payload interval s)) ∧
  ∀ (s : State) (idc : Word) (payload : List Byte) (interval : Half), s.ready = true → payload.length ≤ 7 →
    interval ≠ 0 → HoldsFrame s (req1Bytes idc payload interval) →
    exec .dispatch s = .next (afterRepeat true (idc.setWidth 29) payload interval s)

/-- In every state of the invariant in which a frame waits DISPATCH completes, advances the counter by one, empties the buffer
and leaves the Replay Guard alone (41_command_dispatch R91, R93, R97). -/
def Obligations.DispatchCompletesWhenAFrameWaits : Prop :=
  ∀ s : State, BlockInv s → s.ready = true → ∃ t, exec .dispatch s = .next t ∧
    t.txCounter = s.txCounter + 1 ∧ t.count = 0 ∧ t.ready = false ∧ t.buf = s.buf ∧
    t.trkValid = s.trkValid ∧ t.trkId = s.trkId ∧ t.trkCounter = s.trkCounter ∧ t.attackFlag = s.attackFlag ∧
    t.cfg = s.cfg ∧ t.input = s.input ∧ t.inputFmt = s.inputFmt ∧ t.results = s.results

/-- DISPATCH faults, and does not clamp, when the invariant is broken: a mode byte other than 0x00 and 0x01, or a length byte
above 7 (60_exceptions R155, 41_command_dispatch R98). -/
def Obligations.DispatchFaultsOnABrokenFrame : Prop :=
  ∀ (s : State) (b0 b1 b2 b3 b4 b5 : Byte), s.ready = true → HoldsFrame s [b0, b1, b2, b3, b4, b5] →
    (¬ (b0 = 0x00#8 ∨ b0 = 0x01#8) → exec .dispatch s = .fault .dispatchMode) ∧
    ((b0 = 0x00#8 ∧ 7 < b3.toNat) ∨ (b0 = 0x01#8 ∧ 7 < b5.toNat) → exec .dispatch s = .fault .dispatchLength)

/-- A valid single-shot command of either mode, fed to an empty buffer and dispatched, gives exactly one send of its identifier
and its payload with the counter's value as one more byte, after the timer is stopped (41_command_dispatch R94 over a whole
command; that the whole frame is fed in one step is the model's choice, log 3). -/
def Obligations.SingleShotCommandSendsOneFrame : Prop :=
  (∀ (s : State) (idc : Half) (payload : List Byte),
    BlockInv s → s.count = 0 → s.ready = false → payload.length ≤ 7 →
    ∃ t, execAll [.req0 idc payload 0, .dispatch] s = .next t ∧ t.txCounter = s.txCounter + 1 ∧ t.count = 0 ∧
      t.ready = false ∧ t.repEnabled = false ∧
      t.out = s.out ++ statuses (5 + payload.length) .complete ++
        [.timerCtl .stop,
          .busTx (encodeFrame s.cfg.idWordLayout false ((idc.setWidth 11).setWidth 29) (payload ++ [s.txCounter]))
            (drawnResp s)]) ∧
  ∀ (s : State) (idc : Word) (payload : List Byte),
    BlockInv s → s.count = 0 → s.ready = false → payload.length ≤ 7 →
    ∃ t, execAll [.req1 idc payload 0, .dispatch] s = .next t ∧ t.txCounter = s.txCounter + 1 ∧ t.count = 0 ∧
      t.ready = false ∧ t.repEnabled = false ∧
      t.out = s.out ++ statuses (7 + payload.length) .complete ++
        [.timerCtl .stop,
          .busTx (encodeFrame s.cfg.idWordLayout true (idc.setWidth 29) (payload ++ [s.txCounter])) (drawnResp s)]

/-! TICK, STOP and MS. -/

/-- A TICK while Idle has no effect (42_repeat_scheduler R103). -/
def Obligations.TickWhileIdleDoesNothing : Prop :=
  ∀ s : State, s.repEnabled = false → exec .tick s = .next s

/-- A TICK while Armed overwrites the trailing byte with the counter, advances the counter and sends the stored frame once; the
response changes nothing and the block stays Armed (42_repeat_scheduler R102, R104). This is the `tick` input under EXTERNAL;
under INTERNAL_MS the input is not used and MS ticks (42_repeat_scheduler R110, R111), as other statements say. -/
def Obligations.TickWhileArmedSendsOnce : Prop :=
  ∀ (s : State) (ext : Bool) (id : Ident) (lead : List Byte) (old : Option Byte) (rest : Cells),
    s.cfg.timerModel = .external → s.repEnabled = true → Stored s ext id lead old rest →
    exec .tick s = .next (afterArmedTick ext id lead rest s)

/-- Two Armed ticks with nothing between send the same identifier, the same extended flag and the same leading bytes, and
trailing bytes that differ by one modulo 256: two TICKs under EXTERNAL, and under INTERNAL_MS the MS events up to the second
tick (42_repeat_scheduler R107). -/
def Obligations.ConsecutiveTicksCountUp : Prop :=
  ∀ s : State, BlockInv s → s.repEnabled = true →
    (s.cfg.timerModel = .external → TickTwice [.tick, .tick] s) ∧
    ∀ remaining period : Half, s.cfg.timerModel = .internalMs → s.tmrRemaining = some remaining → s.tmrPeriod = some period →
      TickTwice (List.replicate (remaining.toNat + period.toNat) .ms) s

/-- In every state of the invariant, under both timer models, TICK completes and leaves the assembler and the Replay Guard
alone (42_repeat_scheduler R102, R103, R110). That a TICK record under INTERNAL_MS, where R110 says the `tick` input is not
used, goes on without effect and is not refused is the model's choice (log 12). -/
def Obligations.TickCompletes : Prop :=
  ∀ s : State, BlockInv s → ∃ t, exec .tick s = .next t ∧ t.repEnabled = s.repEnabled ∧ t.count = s.count ∧
    t.ready = s.ready ∧ t.buf = s.buf ∧ t.trkValid = s.trkValid ∧ t.trkId = s.trkId ∧ t.trkCounter = s.trkCounter ∧
    t.attackFlag = s.attackFlag

/-- STOP disarms and emits `timer_ctl(STOP)`, whether armed or not, and touches nothing else; a TICK after it does nothing
(42_repeat_scheduler R105, R110). -/
def Obligations.StopDisarms : Prop :=
  ∀ s : State,
    exec .stop s = .next { s with
      repEnabled := false, tmrRunning := stoppedTimer s, out := s.out ++ [.timerCtl .stop] } ∧
    ∀ t, exec .stop s = .next t → exec .tick t = .next t

/-- MS under EXTERNAL is refused (30_encoding R74). -/
def Obligations.MsIsRefusedUnderExternal : Prop :=
  ∀ s : State, s.cfg.timerModel = .external → exec .ms s = .refused .msExternal

/-- MS under INTERNAL_MS: nothing while the timer is stopped; else it counts down by one, and at zero it reloads the period and
does TICK within the same step (42_repeat_scheduler R111). -/
def Obligations.MsCountsDownAndTicks : Prop :=
  ∀ s : State, s.cfg.timerModel = .internalMs →
    (s.tmrRunning = false → exec .ms s = .next s) ∧
    ∀ remaining : Half, s.tmrRunning = true → s.tmrRemaining = some remaining →
      (remaining - 1 ≠ 0 → exec .ms s = .next { s with tmrRemaining := some (remaining - 1) }) ∧
      ∀ period : Half, s.tmrPeriod = some period → remaining - 1 = 0 →
        (s.repEnabled = false → exec .ms s = .next { s with tmrRemaining := some period }) ∧
        ∀ (ext : Bool) (id : Ident) (lead : List Byte) (old : Option Byte) (rest : Cells),
          s.repEnabled = true → Stored s ext id lead old rest →
          exec .ms s = .next (afterArmedTick ext id lead rest { s with tmrRemaining := some period })

/-- In every state of the invariant MS completes under INTERNAL_MS. -/
def Obligations.MsCompletes : Prop :=
  ∀ s : State, BlockInv s → s.cfg.timerModel = .internalMs → ∃ t, exec .ms s = .next t ∧ BlockInv t

/-- After `ARM(p)` the first `p - 1` MS emit nothing and the `p`-th ticks: it sends the stored frame once and leaves the timer
as the arm left it, so the same holds again (42_repeat_scheduler R111). -/
def Obligations.TheArmedPeriodIsKept : Prop :=
  ∀ (s : State) (period : Half), BlockInv s → s.cfg.timerModel = .internalMs → s.tmrRunning = true →
    s.tmrPeriod = some period → s.tmrRemaining = some period →
    (∀ k, k < period.toNat → execAll (List.replicate k .ms) s = .next { s with tmrRemaining := some (period - BitVec.ofNat 16 k) }) ∧
    ∃ (ext : Bool) (id : Ident) (lead : List Byte) (old : Option Byte) (rest : Cells), Stored s ext id lead old rest ∧
      execAll (List.replicate period.toNat .ms) s = .next (afterArmedTick ext id lead rest s)

/-! The codec. -/

/-- ENCODE: the identifier word, the clamped length and each payload byte at its place, zero where there is none; nothing else
changes but the result handed back (43_bus_codec R113 to R116, R121; handing it back in `results` is the model's choice, log
4). -/
def Obligations.EncodePlacesEveryField : Prop :=
  ∀ (s : State) (ext : Bool) (id : Ident) (data : List Byte), ∃ w : Wire,
    exec (.encode ext id data) s = .next { s with results := s.results ++ [.wire w] } ∧
    w = encodeFrame s.cfg.idWordLayout ext id data ∧
    (∀ i, i < 32 → w.idw.getLsbD i =
      if ext then (if i < 3 then i == 2 else id.getLsbD (i - 3)) else (if i < 21 then false else id.getLsbD (i - 21))) ∧
    w.dlcw = BitVec.ofNat 32 (min data.length 8) ∧
    ∀ i, i < 8 → wireByte w.dlw w.dhw i = data[i]?.getD 0x00#8

/-- DECODE: the IDE bit, the identifier, the clamped length and each payload byte from its place; nothing else changes but the
result handed back (43_bus_codec R117, R118, R121; handing it back in `results` is the model's choice, log 4). -/
def Obligations.DecodeReadsEveryField : Prop :=
  ∀ (s : State) (idw dlcw dlw dhw : Word), ∃ f : BusFrame,
    exec (.decode idw dlcw dlw dhw) s = .next { s with results := s.results ++ [.frame f] } ∧
    f = decodeFrame s.cfg.idWordLayout ⟨idw, dlcw, dlw, dhw⟩ ∧
    f.ext = idw.getLsbD 2 ∧
    (f.ext = true → f.id = idw.extractLsb' 3 29) ∧
    (f.ext = false → f.id = (idw.extractLsb' 21 11).setWidth 29) ∧
    f.data.length = min (dlcw.extractLsb' 0 4).toNat 8 ∧
    ∀ i, i < f.data.length → f.data[i]? = some (wireByte dlw dhw i)

/-- The codec's round trip: DECODE of ENCODE is the frame, ENCODE of DECODE is the canonical form, and a tuple that is its own
canonical form comes back unchanged (43_bus_codec R120). -/
def Obligations.CodecRoundTrip : Prop :=
  (∀ (layout : IdWordLayout) (ext : Bool) (id : Ident) (data : List Byte), (ext = false → id.toNat < 2 ^ 11) →
    data.length ≤ 8 → decodeFrame layout (encodeFrame layout ext id data) = ⟨ext, id, data⟩) ∧
  (∀ (layout : IdWordLayout) (w : Wire), Canonical w
    (encodeFrame layout (decodeFrame layout w).ext (decodeFrame layout w).id (decodeFrame layout w).data)) ∧
  ∀ (layout : IdWordLayout) (w : Wire), Canonical w w →
    encodeFrame layout (decodeFrame layout w).ext (decodeFrame layout w).id (decodeFrame layout w).data = w

/-- Two tuples that differ only in the ignored bits decode to the same frame (43_bus_codec R119). -/
def Obligations.IgnoredBitsDoNotMatter : Prop :=
  ∀ (layout : IdWordLayout) (v w : Wire), SameUsedBits v w → decodeFrame layout v = decodeFrame layout w

/-! The Replay Guard. -/

/-- A frame on an untracked identifier is Clean and starts its stream, whatever its counter (44_replay_guard R125;
handing the verdict back in `results` is the model's choice, log 4). -/
def Obligations.NewStreamIsClean : Prop :=
  ∀ (s : State) (id : Ident) (c : Byte),
    (s.trkValid = false ∨ ∃ last, s.trkId = some last ∧ id ≠ last) →
    exec (.check id c) s = .next (afterCheck id c .clean s)

/-- On the tracked identifier the frame is a suspected replay exactly when its counter is the tracked one, and its counter is
stored whatever the result (44_replay_guard R126, R127; handing the verdict back in `results` is the model's choice, log 4). -/
def Obligations.SameCounterIsASuspectedReplay : Prop :=
  ∀ (s : State) (id : Ident) (c last : Byte), s.trkValid = true → s.trkId = some id → s.trkCounter = some last →
    exec (.check id c) s = .next (afterCheck id c (if c = last then .suspectedReplay else .clean) s)

/-! BUS_RX, the wire rows and the notification rows. -/

/-- A frame whose decoded length is 0 is dropped: it does not reach the Replay Guard, no state changes and nothing is emitted
(45_inbound_processor R132). -/
def Obligations.EmptyFrameIsDropped : Prop :=
  ∀ (s : State) (idw dlcw dlw dhw : Word), dlcw.extractLsb' 0 4 = 0 → exec (.busRx idw dlcw dlw dhw) s = .next s

/-- A frame with a sequence byte is notified whole, with flag 1 exactly when its identifier and its counter are the tracked
ones, and it is forwarded either way; the tracker takes its identifier and counter, and the attack flag is clear again
(45_inbound_processor R133, R134, R135; 44_replay_guard R125, R126, R127). -/
def Obligations.InboundFrameIsNotified : Prop :=
  ∀ (s : State) (idw dlcw dlw dhw : Word) (ext : Bool) (id : Ident) (app : List Byte) (sq : Byte), Tracked s →
    decodeFrame s.cfg.idWordLayout ⟨idw, dlcw, dlw, dhw⟩ = ⟨ext, id, app ++ [sq]⟩ →
    ∃ flag : Bool, (flag = true ↔ Replays id sq s) ∧
      exec (.busRx idw dlcw dlw dhw) s = .next (afterRelay ext id app sq flag s)

/-- The wire rows are the arrival of their words on `bus_rx`: an empty frame is dropped, any other is notified as BUS_RX
notifies it. That a row of the wire format stands for this is the model's choice (log 3). -/
def Obligations.WireRowsRelayTheirFrame : Prop :=
  ∀ (s : State) (idw dlcw dlw dhw : Word) (i : Instr), i = .wireStd idw dlcw dlw dhw ∨ i = .wireExt idw dlcw dlw dhw →
    (dlcw.extractLsb' 0 4 = 0 → exec i s = .next s) ∧
    ∀ (ext : Bool) (id : Ident) (app : List Byte) (sq : Byte), Tracked s →
      decodeFrame s.cfg.idWordLayout ⟨idw, dlcw, dlw, dhw⟩ = ⟨ext, id, app ++ [sq]⟩ →
      ∃ flag : Bool, (flag = true ↔ Replays id sq s) ∧ exec i s = .next (afterRelay ext id app sq flag s)

/-- The same frame twice in a row is notified with flag 1 the second time, whatever was tracked before (45_inbound_processor
R135, R138 item 5). -/
def Obligations.RepeatedFrameIsFlagged : Prop :=
  ∀ (s : State) (idw dlcw dlw dhw : Word), Tracked s → dlcw.extractLsb' 0 4 ≠ 0 →
    ∃ (t : State) (bytes : List Byte) (first : Byte),
      execAll [.busRx idw dlcw dlw dhw, .busRx idw dlcw dlw dhw] s = .next t ∧
      t.out = s.out ++ [.hostTx (bytes ++ [first]), .hostTx (bytes ++ [0x01#8])]

/-- Inbound and outbound traffic share no state. BUS_RX neither reads nor writes the assembler, the counter and the scheduler:
two states that agree on the Replay Guard and the layout give the same notification and the same tracker, and nothing else
changes. And sending does not touch the Replay Guard: the block does not check its own frames (45_inbound_processor R136). -/
def Obligations.InboundIsIndependentOfOutbound : Prop :=
  (∀ (s s' t : State) (idw dlcw dlw dhw : Word),
    s.cfg.idWordLayout = s'.cfg.idWordLayout → s.trkValid = s'.trkValid → s.trkId = s'.trkId →
    s.trkCounter = s'.trkCounter → s.attackFlag = s'.attackFlag →
    exec (.busRx idw dlcw dlw dhw) s = .next t →
    OnlyGuard s t ∧ ∃ (t' : State) (o : List Output), exec (.busRx idw dlcw dlw dhw) s' = .next t' ∧ OnlyGuard s' t' ∧
      t.out = s.out ++ o ∧ t'.out = s'.out ++ o ∧ t.trkValid = t'.trkValid ∧ t.trkId = t'.trkId ∧
      t.trkCounter = t'.trkCounter ∧ t.attackFlag = t'.attackFlag) ∧
  ∀ (s t : State) (i : Instr), i = .dispatch ∨ i = .tick ∨ i = .ms → exec i s = .next t →
    t.trkValid = s.trkValid ∧ t.trkId = s.trkId ∧ t.trkCounter = s.trkCounter ∧ t.attackFlag = s.attackFlag

/-- The notification rows put their frame on `host_tx`, whole, and change nothing else (30_encoding R64, R65; that a row of an
output format is the emission of one frame is the model's choice, log 3). -/
def Obligations.NotificationRowsEmitTheirFrame : Prop :=
  (∀ (s : State) (id : StdIdent) (app : List Byte) (flag : Bool),
    exec (.ntf0 id app flag) s = .next { s with out := s.out ++ [.hostTx (ntf0Bytes (id.setWidth 29) app flag)] }) ∧
  ∀ (s : State) (id : Ident) (app : List Byte) (flag : Bool),
    exec (.ntf1 id app flag) s = .next { s with out := s.out ++ [.hostTx (ntf1Bytes id app flag)] }

/-! The whole machine. -/

/-- Every step keeps the invariant of 10_state R29. -/
def Obligations.EveryStepKeepsTheInvariant : Prop :=
  ∀ s t : State, BlockInv s → step s = .next t → BlockInv t

/-- In every state of the invariant a step either goes on, is refused, or is a DISPATCH record with nothing waiting: the block
itself never faults (60_exceptions R155). -/
def Obligations.TheBlockNeverFaults : Prop :=
  ∀ (s : State), BlockInv s → SafeOutcome (step s) ∧ ∀ f, step s = .fault f → s.ready = false

/-- DISPATCH increments the counter by one modulo 256 whatever the interval, and so does every TICK while Armed; nothing else
writes it except RESET. Under EXTERNAL a TICK is the `tick` input, and under INTERNAL_MS it is the MS that ends a period
(10_state R21, 42_repeat_scheduler R110, R111). -/
def Obligations.OnlyTransmissionsAdvanceTheCounter : Prop :=
  ∀ (s t : State) (i : Instr), exec i s = .next t →
    (i = .dispatch → t.txCounter = s.txCounter + 1) ∧
    (i = .tick → s.cfg.timerModel = .external → s.repEnabled = true → t.txCounter = s.txCounter + 1) ∧
    (i = .ms → t.txCounter =
      if s.tmrRunning = true ∧ s.tmrRemaining = some 1 ∧ s.repEnabled = true then s.txCounter + 1 else s.txCounter) ∧
    (i ≠ .dispatch → (i = .tick → s.repEnabled = false ∨ s.cfg.timerModel = .internalMs) → i ≠ .ms → i ≠ .reset → t.txCounter = s.txCounter)

/-- Only a DISPATCH arms the scheduler, and only DISPATCH, STOP and RESET disarm it (42_repeat_scheduler R106). -/
def Obligations.SchedulerTransitions : Prop :=
  ∀ (s t : State) (i : Instr), exec i s = .next t →
    (s.repEnabled = false → t.repEnabled = true → i = .dispatch ∧ s.ready = true) ∧
    (s.repEnabled = true → t.repEnabled = false → i = .dispatch ∨ i = .stop ∨ i = .reset)

/-- A frame goes out on the bus only from a DISPATCH or, while Armed, from a TICK under EXTERNAL or an MS, at most one an
operation, and it takes exactly one counter value (10_state R35, 20_memory R51). -/
def Obligations.EverySendTakesOneCounterValue : Prop :=
  ∀ (s t : State) (i : Instr), exec i s = .next t →
    t.busTxs = s.busTxs ∨
    ((i = .dispatch ∨ (((i = .tick ∧ s.cfg.timerModel = .external) ∨ i = .ms) ∧ s.repEnabled = true)) ∧ t.txCounter = s.txCounter + 1 ∧
      ∃ w r, t.busTxs = s.busTxs ++ [(w, r)])

/-- In any run of operations without a RESET, from a state of the invariant, in which the counter is incremented at most 256
times, no two frames on the bus carry the same sequence byte, however many operations it has, whatever the interleaving and
whatever the responses (20_memory R51, 70_reset_and_hazards R164). -/
def Obligations.NoCounterValueIsSentTwice : Prop :=
  ∀ (s t : State) (ops : List Instr) (sent : List (Wire × BusResp)), BlockInv s →
    (∀ i ∈ ops, i.format ≠ .internal ∧ i ≠ .reset) → incrementsTaken ops s ≤ 256 →
    execAll ops s = .next t → t.busTxs = s.busTxs ++ sent → (sent.map (fun p => lastWireByte p.1)).Nodup

/-- No operation changes the parameters, and what was emitted stays emitted, in order (10_state R31, R36); nor does one change
the events to come or their format. That these are fields of the state, and that RESET leaves them and the past emissions, is
the model's choice (logs 1 and 16). -/
def Obligations.ParametersAndPastEmissionsStay : Prop :=
  ∀ (s t : State) (i : Instr), exec i s = .next t →
    t.cfg = s.cfg ∧ t.inputFmt = s.inputFmt ∧ t.input = s.input ∧ ∃ o, t.out = s.out ++ o

/-- Under INTERNAL_MS the `tick` input is not used: a TICK record, Armed or not, changes nothing and emits nothing
(42_repeat_scheduler R110; that it is not refused either is read from it, log 12). -/
def Obligations.TickInputIsNotUsedUnderInternalMs : Prop :=
  ∀ s : State, s.cfg.timerModel = .internalMs → exec .tick s = .next s

/-- A stream that ends inside a record, a FEED without its byte or a BUS_RX with fewer than its 16 operand bytes, is refused
whole at its first step, whatever valid records stand before it (read from 30_encoding R74, log 6). -/
def Obligations.CutOffRecordRefusesTheWholeStream : Prop :=
  ∀ (s : State) (records : List Instr) (op : Byte) (operands : List Byte),
    s.cfg.Admitted → s.inputFmt = .evt → (∀ i ∈ records, i.format = .evt) →
    ((op = 0x01#8 ∧ operands = []) ∨ (op = 0x05#8 ∧ operands.length < 16)) →
    s.input = (records.map encode).flatten ++ op :: operands →
    step s = .refused .badStream
end

