-- ==== Sys2Proof/Laws/Decode.lean ====
section
/-! SUPPORT. The byte-order helpers invert each other, an instruction takes at least one byte, and a stream is read one
instruction at a time. -/

namespace Sys2Proof

@[simp] theorem be16_beBytes16 (v : Half) : be16 (v.extractLsb' 8 8) (v.extractLsb' 0 8) = v := by
  apply BitVec.eq_of_getLsbD_eq
  intro i hi
  simp only [be16, BitVec.getLsbD_append, BitVec.getLsbD_extractLsb']
  split
  · simp [*]
  · have : i - 8 < 8 := by omega
    simp [this, show 8 + (i - 8) = i by omega]

@[simp] theorem be32_beBytes32 (v : Word) :
    be32 (v.extractLsb' 24 8) (v.extractLsb' 16 8) (v.extractLsb' 8 8) (v.extractLsb' 0 8) = v := by
  apply BitVec.eq_of_getLsbD_eq
  intro i hi
  simp only [be32, BitVec.getLsbD_append, BitVec.getLsbD_extractLsb']
  split
  · simp [*]
  · split
    · rename_i h1 h2
      simp [h2, show 8 + (i - 8) = i by omega]
    · split
      · rename_i h1 h2 h3
        simp [h3, show 16 + (i - 8 - 8) = i by omega]
      · have h4 : i - 8 - 8 - 8 < 8 := by omega
        simp [h4, show 24 + (i - 8 - 8 - 8) = i by omega]

@[simp] theorem le32_leBytes32 (v : Word) :
    le32 (v.extractLsb' 0 8) (v.extractLsb' 8 8) (v.extractLsb' 16 8) (v.extractLsb' 24 8) = v := be32_beBytes32 v

theorem getLsbD_be16 (a b : Byte) (i : Nat) :
    (be16 a b).getLsbD i = if i < 8 then b.getLsbD i else a.getLsbD (i - 8) := by
  simp only [be16, BitVec.getLsbD_append]

theorem getLsbD_be32 (a b c d : Byte) (i : Nat) :
    (be32 a b c d).getLsbD i =
      if i < 8 then d.getLsbD i else if i < 16 then c.getLsbD (i - 8) else if i < 24 then b.getLsbD (i - 16)
      else a.getLsbD (i - 24) := by
  simp only [be32, BitVec.getLsbD_append]
  by_cases h1 : i < 8
  · simp [h1]
  · by_cases h2 : i < 16
    · simp [h1, h2, show i - 8 < 8 by omega]
    · by_cases h3 : i < 24
      · simp [h1, h2, h3, show ¬ i - 8 < 8 by omega, show i - 8 - 8 = i - 16 by omega, show i - 16 < 8 by omega]
      · simp [h1, h2, h3, show ¬ i - 8 < 8 by omega, show ¬ i - 8 - 8 < 8 by omega,
          show i - 8 - 8 - 8 = i - 24 by omega]

theorem be16_hi (a b : Byte) : (be16 a b).extractLsb' 8 8 = a := by
  apply BitVec.eq_of_getLsbD_eq
  intro i hi
  rw [BitVec.getLsbD_extractLsb', getLsbD_be16]
  simp [hi]

theorem be16_lo (a b : Byte) : (be16 a b).extractLsb' 0 8 = b := by
  apply BitVec.eq_of_getLsbD_eq
  intro i hi
  rw [BitVec.getLsbD_extractLsb', getLsbD_be16]
  simp [hi]

theorem be32_byte3 (a b c d : Byte) : (be32 a b c d).extractLsb' 24 8 = a := by
  apply BitVec.eq_of_getLsbD_eq
  intro i hi
  rw [BitVec.getLsbD_extractLsb', getLsbD_be32]
  simp [hi, show ¬ 24 + i < 8 by omega, show ¬ 24 + i < 16 by omega]

theorem be32_byte2 (a b c d : Byte) : (be32 a b c d).extractLsb' 16 8 = b := by
  apply BitVec.eq_of_getLsbD_eq
  intro i hi
  rw [BitVec.getLsbD_extractLsb', getLsbD_be32]
  simp [hi, show ¬ 16 + i < 8 by omega, show 16 + i < 24 by omega]

theorem be32_byte1 (a b c d : Byte) : (be32 a b c d).extractLsb' 8 8 = c := by
  apply BitVec.eq_of_getLsbD_eq
  intro i hi
  rw [BitVec.getLsbD_extractLsb', getLsbD_be32]
  simp [hi, show 8 + i < 16 by omega]

theorem be32_byte0 (a b c d : Byte) : (be32 a b c d).extractLsb' 0 8 = d := by
  apply BitVec.eq_of_getLsbD_eq
  intro i hi
  rw [BitVec.getLsbD_extractLsb', getLsbD_be32]
  simp [hi]

@[simp] theorem beBytes16_be16 (a b : Byte) : beBytes16 (be16 a b) = [a, b] := by
  simp [beBytes16, be16_hi, be16_lo]

@[simp] theorem beBytes32_be32 (a b c d : Byte) : beBytes32 (be32 a b c d) = [a, b, c, d] := by
  simp [beBytes32, be32_byte3, be32_byte2, be32_byte1, be32_byte0]

@[simp] theorem leBytes32_le32 (a b c d : Byte) : leBytes32 (le32 a b c d) = [a, b, c, d] := by
  show [(be32 d c b a).extractLsb' 0 8, (be32 d c b a).extractLsb' 8 8, (be32 d c b a).extractLsb' 16 8,
    (be32 d c b a).extractLsb' 24 8] = _
  simp [be32_byte3, be32_byte2, be32_byte1, be32_byte0]

@[simp] theorem leBytes32_length (v : Word) : (leBytes32 v).length = 4 := rfl

/-- A length byte reads back as the length it was written from. -/
theorem lenByte_toNat (n : Nat) (h : n < 256) : (lenByte n).toNat = n := by
  simp [lenByte, BitVec.toNat_ofNat]; omega

theorem lenByte_of_toNat (b : Byte) : lenByte b.toNat = b := by simp [lenByte]

@[simp] theorem takeWord_leBytes32 (v : Word) (rest : List Byte) : takeWord (leBytes32 v ++ rest) = some (v, rest) := by
  simp [leBytes32, takeWord]

theorem takeWord_eq_some {bs rest : List Byte} {v : Word} (h : takeWord bs = some (v, rest)) :
    bs = leBytes32 v ++ rest := by
  unfold takeWord at h
  split at h
  · simp only [Option.some.injEq, Prod.mk.injEq] at h
    obtain ⟨rfl, rfl⟩ := h
    simp
  · simp at h

@[simp] theorem takeWords_leBytes32 (a b c d : Word) (rest : List Byte) :
    takeWords (leBytes32 a ++ (leBytes32 b ++ (leBytes32 c ++ (leBytes32 d ++ rest)))) = some (a, b, c, d, rest) := by
  simp [takeWords]

theorem takeWords_eq_some {bs rest : List Byte} {a b c d : Word} (h : takeWords bs = some (a, b, c, d, rest)) :
    bs = leBytes32 a ++ (leBytes32 b ++ (leBytes32 c ++ (leBytes32 d ++ rest))) := by
  unfold takeWords at h
  split at h
  · simp at h
  · rename_i w1 r1 h1
    split at h
    · simp at h
    · rename_i w2 r2 h2
      split at h
      · simp at h
      · rename_i w3 r3 h3
        split at h
        · simp at h
        · rename_i w4 r4 h4
          simp only [Option.some.injEq, Prod.mk.injEq] at h
          obtain ⟨rfl, rfl, rfl, rfl, rfl⟩ := h
          rw [takeWord_eq_some h1, takeWord_eq_some h2, takeWord_eq_some h3, takeWord_eq_some h4]

theorem takeBody_append (payload : List Byte) (hi lo : Byte) (rest : List Byte) :
    takeBody payload.length (payload ++ hi :: lo :: rest) = some (payload, be16 hi lo, rest) := by
  simp [takeBody]

theorem takeBody_eq_some {len : Nat} {bs payload rest : List Byte} {v : Half}
    (h : takeBody len bs = some (payload, v, rest)) :
    payload.length = len ∧ bs = payload ++ beBytes16 v ++ rest := by
  unfold takeBody at h
  split at h
  · rename_i hi lo r hd
    simp only [Option.some.injEq, Prod.mk.injEq] at h
    obtain ⟨rfl, rfl, rfl⟩ := h
    have hl : len < bs.length := by
      by_contra hc
      rw [List.drop_eq_nil_of_le (by omega)] at hd
      simp at hd
    refine ⟨by simp; omega, ?_⟩
    rw [beBytes16_be16, List.append_assoc]
    show bs = bs.take len ++ (hi :: lo :: r)
    rw [← hd, List.take_append_drop]
  · simp at h

theorem readFlag_flagByte (b : Bool) : readFlag (flagByte b) = some b := by cases b <;> rfl

theorem readFlag_eq_some {b : Byte} {v : Bool} (h : readFlag b = some v) : b = flagByte v := by
  unfold readFlag at h
  split at h
  · simp at h; subst h; simp [flagByte, *]
  · split at h
    · simp at h; subst h; simp [flagByte, *]
    · simp at h

theorem takeNote_append (app : List Byte) (flag : Bool) (rest : List Byte) (h : app.length + 1 ≤ 8) :
    takeNote (lenByte app.length :: (app ++ flagByte flag :: rest)) = some (app, flag, rest) := by
  have hn : (lenByte app.length).toNat = app.length := lenByte_toNat _ (by omega)
  simp [takeNote, hn, Config.maxBusPayload, h, readFlag_flagByte]

theorem takeNote_eq_some {bs app rest : List Byte} {flag : Bool} (h : takeNote bs = some (app, flag, rest)) :
    app.length + 1 ≤ 8 ∧ bs = lenByte app.length :: (app ++ flagByte flag :: rest) := by
  unfold takeNote at h
  split at h
  · simp at h
  · rename_i n bs'
    split at h
    · rename_i hn
      split at h
      · rename_i f r hd
        simp only [Option.map_eq_some_iff, Prod.mk.injEq] at h
        obtain ⟨v, hv, rfl, rfl, rfl⟩ := h
        have hl : n.toNat < bs'.length := by
          by_contra hc
          rw [List.drop_eq_nil_of_le (by omega)] at hd
          simp at hd
        have hlen : (bs'.take n.toNat).length = n.toNat := by simp; omega
        rw [hlen]
        refine ⟨hn, ?_⟩
        rw [lenByte_of_toNat, ← readFlag_eq_some hv]
        show n :: bs' = n :: (bs'.take n.toNat ++ f :: r)
        rw [← hd, List.take_append_drop]
      · simp at h
    · simp at h

/-- An encoding has at least one byte, unless the row has none at all. -/
theorem encode_ne_nil (i : Instr) (h : i.format ≠ .internal) : encode i ≠ [] := by
  cases i <;> simp_all [Instr.format, encode, leBytes32, ntfBytes]

end Sys2Proof
end

