-- ==== Sys2Proof/Laws/State.lean ====
section
/-! SUPPORT. One lemma per field per shared update, so that no later proof unfolds a record update. -/

namespace Sys2Proof.Machine

/-! `emit`. -/

@[simp] theorem emit_cfg (o : Output) (s : State) : (emit o s).cfg = s.cfg := rfl
@[simp] theorem emit_buf (o : Output) (s : State) : (emit o s).buf = s.buf := rfl
@[simp] theorem emit_count (o : Output) (s : State) : (emit o s).count = s.count := rfl
@[simp] theorem emit_ready (o : Output) (s : State) : (emit o s).ready = s.ready := rfl
@[simp] theorem emit_txCounter (o : Output) (s : State) : (emit o s).txCounter = s.txCounter := rfl
@[simp] theorem emit_repEnabled (o : Output) (s : State) : (emit o s).repEnabled = s.repEnabled := rfl
@[simp] theorem emit_repExt (o : Output) (s : State) : (emit o s).repExt = s.repExt := rfl
@[simp] theorem emit_repId (o : Output) (s : State) : (emit o s).repId = s.repId := rfl
@[simp] theorem emit_repLen (o : Output) (s : State) : (emit o s).repLen = s.repLen := rfl
@[simp] theorem emit_repData (o : Output) (s : State) : (emit o s).repData = s.repData := rfl
@[simp] theorem emit_repPeriod (o : Output) (s : State) : (emit o s).repPeriod = s.repPeriod := rfl
@[simp] theorem emit_trkValid (o : Output) (s : State) : (emit o s).trkValid = s.trkValid := rfl
@[simp] theorem emit_trkId (o : Output) (s : State) : (emit o s).trkId = s.trkId := rfl
@[simp] theorem emit_trkCounter (o : Output) (s : State) : (emit o s).trkCounter = s.trkCounter := rfl
@[simp] theorem emit_attackFlag (o : Output) (s : State) : (emit o s).attackFlag = s.attackFlag := rfl
@[simp] theorem emit_tmrRunning (o : Output) (s : State) : (emit o s).tmrRunning = s.tmrRunning := rfl
@[simp] theorem emit_tmrPeriod (o : Output) (s : State) : (emit o s).tmrPeriod = s.tmrPeriod := rfl
@[simp] theorem emit_tmrRemaining (o : Output) (s : State) : (emit o s).tmrRemaining = s.tmrRemaining := rfl
@[simp] theorem emit_inputFmt (o : Output) (s : State) : (emit o s).inputFmt = s.inputFmt := rfl
@[simp] theorem emit_input (o : Output) (s : State) : (emit o s).input = s.input := rfl
@[simp] theorem emit_script (o : Output) (s : State) : (emit o s).script = s.script := rfl
@[simp] theorem emit_out (o : Output) (s : State) : (emit o s).out = s.out ++ [o] := rfl
@[simp] theorem emit_results (o : Output) (s : State) : (emit o s).results = s.results := rfl

/-! `giveResult`. -/

@[simp] theorem giveResult_cfg (r : FnResult) (s : State) : (giveResult r s).cfg = s.cfg := rfl
@[simp] theorem giveResult_buf (r : FnResult) (s : State) : (giveResult r s).buf = s.buf := rfl
@[simp] theorem giveResult_count (r : FnResult) (s : State) : (giveResult r s).count = s.count := rfl
@[simp] theorem giveResult_ready (r : FnResult) (s : State) : (giveResult r s).ready = s.ready := rfl
@[simp] theorem giveResult_txCounter (r : FnResult) (s : State) : (giveResult r s).txCounter = s.txCounter := rfl
@[simp] theorem giveResult_repEnabled (r : FnResult) (s : State) : (giveResult r s).repEnabled = s.repEnabled := rfl
@[simp] theorem giveResult_repExt (r : FnResult) (s : State) : (giveResult r s).repExt = s.repExt := rfl
@[simp] theorem giveResult_repId (r : FnResult) (s : State) : (giveResult r s).repId = s.repId := rfl
@[simp] theorem giveResult_repLen (r : FnResult) (s : State) : (giveResult r s).repLen = s.repLen := rfl
@[simp] theorem giveResult_repData (r : FnResult) (s : State) : (giveResult r s).repData = s.repData := rfl
@[simp] theorem giveResult_repPeriod (r : FnResult) (s : State) : (giveResult r s).repPeriod = s.repPeriod := rfl
@[simp] theorem giveResult_trkValid (r : FnResult) (s : State) : (giveResult r s).trkValid = s.trkValid := rfl
@[simp] theorem giveResult_trkId (r : FnResult) (s : State) : (giveResult r s).trkId = s.trkId := rfl
@[simp] theorem giveResult_trkCounter (r : FnResult) (s : State) : (giveResult r s).trkCounter = s.trkCounter := rfl
@[simp] theorem giveResult_attackFlag (r : FnResult) (s : State) : (giveResult r s).attackFlag = s.attackFlag := rfl
@[simp] theorem giveResult_tmrRunning (r : FnResult) (s : State) : (giveResult r s).tmrRunning = s.tmrRunning := rfl
@[simp] theorem giveResult_tmrPeriod (r : FnResult) (s : State) : (giveResult r s).tmrPeriod = s.tmrPeriod := rfl
@[simp] theorem giveResult_tmrRemaining (r : FnResult) (s : State) : (giveResult r s).tmrRemaining = s.tmrRemaining := rfl
@[simp] theorem giveResult_inputFmt (r : FnResult) (s : State) : (giveResult r s).inputFmt = s.inputFmt := rfl
@[simp] theorem giveResult_input (r : FnResult) (s : State) : (giveResult r s).input = s.input := rfl
@[simp] theorem giveResult_script (r : FnResult) (s : State) : (giveResult r s).script = s.script := rfl
@[simp] theorem giveResult_out (r : FnResult) (s : State) : (giveResult r s).out = s.out := rfl
@[simp] theorem giveResult_results (r : FnResult) (s : State) : (giveResult r s).results = s.results ++ [r] := rfl

/-! `resetBuffer`. -/

@[simp] theorem resetBuffer_cfg (s : State) : (resetBuffer s).cfg = s.cfg := rfl
@[simp] theorem resetBuffer_buf (s : State) : (resetBuffer s).buf = s.buf := rfl
@[simp] theorem resetBuffer_count (s : State) : (resetBuffer s).count = 0 := rfl
@[simp] theorem resetBuffer_ready (s : State) : (resetBuffer s).ready = false := rfl
@[simp] theorem resetBuffer_txCounter (s : State) : (resetBuffer s).txCounter = s.txCounter := rfl
@[simp] theorem resetBuffer_repEnabled (s : State) : (resetBuffer s).repEnabled = s.repEnabled := rfl
@[simp] theorem resetBuffer_repExt (s : State) : (resetBuffer s).repExt = s.repExt := rfl
@[simp] theorem resetBuffer_repId (s : State) : (resetBuffer s).repId = s.repId := rfl
@[simp] theorem resetBuffer_repLen (s : State) : (resetBuffer s).repLen = s.repLen := rfl
@[simp] theorem resetBuffer_repData (s : State) : (resetBuffer s).repData = s.repData := rfl
@[simp] theorem resetBuffer_repPeriod (s : State) : (resetBuffer s).repPeriod = s.repPeriod := rfl
@[simp] theorem resetBuffer_trkValid (s : State) : (resetBuffer s).trkValid = s.trkValid := rfl
@[simp] theorem resetBuffer_trkId (s : State) : (resetBuffer s).trkId = s.trkId := rfl
@[simp] theorem resetBuffer_trkCounter (s : State) : (resetBuffer s).trkCounter = s.trkCounter := rfl
@[simp] theorem resetBuffer_attackFlag (s : State) : (resetBuffer s).attackFlag = s.attackFlag := rfl
@[simp] theorem resetBuffer_tmrRunning (s : State) : (resetBuffer s).tmrRunning = s.tmrRunning := rfl
@[simp] theorem resetBuffer_tmrPeriod (s : State) : (resetBuffer s).tmrPeriod = s.tmrPeriod := rfl
@[simp] theorem resetBuffer_tmrRemaining (s : State) : (resetBuffer s).tmrRemaining = s.tmrRemaining := rfl
@[simp] theorem resetBuffer_inputFmt (s : State) : (resetBuffer s).inputFmt = s.inputFmt := rfl
@[simp] theorem resetBuffer_input (s : State) : (resetBuffer s).input = s.input := rfl
@[simp] theorem resetBuffer_script (s : State) : (resetBuffer s).script = s.script := rfl
@[simp] theorem resetBuffer_out (s : State) : (resetBuffer s).out = s.out := rfl
@[simp] theorem resetBuffer_results (s : State) : (resetBuffer s).results = s.results := rfl

/-! `track`. -/

@[simp] theorem track_cfg (id : Ident) (c : Byte) (r : CheckResult) (s : State) : (track id c r s).cfg = s.cfg := rfl
@[simp] theorem track_buf (id : Ident) (c : Byte) (r : CheckResult) (s : State) : (track id c r s).buf = s.buf := rfl
@[simp] theorem track_count (id : Ident) (c : Byte) (r : CheckResult) (s : State) : (track id c r s).count = s.count := rfl
@[simp] theorem track_ready (id : Ident) (c : Byte) (r : CheckResult) (s : State) : (track id c r s).ready = s.ready := rfl
@[simp] theorem track_txCounter (id : Ident) (c : Byte) (r : CheckResult) (s : State) : (track id c r s).txCounter = s.txCounter := rfl
@[simp] theorem track_repEnabled (id : Ident) (c : Byte) (r : CheckResult) (s : State) : (track id c r s).repEnabled = s.repEnabled := rfl
@[simp] theorem track_repExt (id : Ident) (c : Byte) (r : CheckResult) (s : State) : (track id c r s).repExt = s.repExt := rfl
@[simp] theorem track_repId (id : Ident) (c : Byte) (r : CheckResult) (s : State) : (track id c r s).repId = s.repId := rfl
@[simp] theorem track_repLen (id : Ident) (c : Byte) (r : CheckResult) (s : State) : (track id c r s).repLen = s.repLen := rfl
@[simp] theorem track_repData (id : Ident) (c : Byte) (r : CheckResult) (s : State) : (track id c r s).repData = s.repData := rfl
@[simp] theorem track_repPeriod (id : Ident) (c : Byte) (r : CheckResult) (s : State) : (track id c r s).repPeriod = s.repPeriod := rfl
@[simp] theorem track_trkValid (id : Ident) (c : Byte) (r : CheckResult) (s : State) : (track id c r s).trkValid = true := rfl
@[simp] theorem track_trkId (id : Ident) (c : Byte) (r : CheckResult) (s : State) : (track id c r s).trkId = some id := rfl
@[simp] theorem track_trkCounter (id : Ident) (c : Byte) (r : CheckResult) (s : State) : (track id c r s).trkCounter = some c := rfl
@[simp] theorem track_attackFlag (id : Ident) (c : Byte) (r : CheckResult) (s : State) : (track id c r s).attackFlag = r.attack := rfl
@[simp] theorem track_tmrRunning (id : Ident) (c : Byte) (r : CheckResult) (s : State) : (track id c r s).tmrRunning = s.tmrRunning := rfl
@[simp] theorem track_tmrPeriod (id : Ident) (c : Byte) (r : CheckResult) (s : State) : (track id c r s).tmrPeriod = s.tmrPeriod := rfl
@[simp] theorem track_tmrRemaining (id : Ident) (c : Byte) (r : CheckResult) (s : State) : (track id c r s).tmrRemaining = s.tmrRemaining := rfl
@[simp] theorem track_inputFmt (id : Ident) (c : Byte) (r : CheckResult) (s : State) : (track id c r s).inputFmt = s.inputFmt := rfl
@[simp] theorem track_input (id : Ident) (c : Byte) (r : CheckResult) (s : State) : (track id c r s).input = s.input := rfl
@[simp] theorem track_script (id : Ident) (c : Byte) (r : CheckResult) (s : State) : (track id c r s).script = s.script := rfl
@[simp] theorem track_out (id : Ident) (c : Byte) (r : CheckResult) (s : State) : (track id c r s).out = s.out := rfl
@[simp] theorem track_results (id : Ident) (c : Byte) (r : CheckResult) (s : State) : (track id c r s).results = s.results := rfl

/-! `sendBusFrame`. -/

@[simp] theorem sendBusFrame_cfg (w : Wire) (s : State) : (sendBusFrame w s).cfg = s.cfg := rfl
@[simp] theorem sendBusFrame_buf (w : Wire) (s : State) : (sendBusFrame w s).buf = s.buf := rfl
@[simp] theorem sendBusFrame_count (w : Wire) (s : State) : (sendBusFrame w s).count = s.count := rfl
@[simp] theorem sendBusFrame_ready (w : Wire) (s : State) : (sendBusFrame w s).ready = s.ready := rfl
@[simp] theorem sendBusFrame_txCounter (w : Wire) (s : State) : (sendBusFrame w s).txCounter = s.txCounter := rfl
@[simp] theorem sendBusFrame_repEnabled (w : Wire) (s : State) : (sendBusFrame w s).repEnabled = s.repEnabled := rfl
@[simp] theorem sendBusFrame_repExt (w : Wire) (s : State) : (sendBusFrame w s).repExt = s.repExt := rfl
@[simp] theorem sendBusFrame_repId (w : Wire) (s : State) : (sendBusFrame w s).repId = s.repId := rfl
@[simp] theorem sendBusFrame_repLen (w : Wire) (s : State) : (sendBusFrame w s).repLen = s.repLen := rfl
@[simp] theorem sendBusFrame_repData (w : Wire) (s : State) : (sendBusFrame w s).repData = s.repData := rfl
@[simp] theorem sendBusFrame_repPeriod (w : Wire) (s : State) : (sendBusFrame w s).repPeriod = s.repPeriod := rfl
@[simp] theorem sendBusFrame_trkValid (w : Wire) (s : State) : (sendBusFrame w s).trkValid = s.trkValid := rfl
@[simp] theorem sendBusFrame_trkId (w : Wire) (s : State) : (sendBusFrame w s).trkId = s.trkId := rfl
@[simp] theorem sendBusFrame_trkCounter (w : Wire) (s : State) : (sendBusFrame w s).trkCounter = s.trkCounter := rfl
@[simp] theorem sendBusFrame_attackFlag (w : Wire) (s : State) : (sendBusFrame w s).attackFlag = s.attackFlag := rfl
@[simp] theorem sendBusFrame_tmrRunning (w : Wire) (s : State) : (sendBusFrame w s).tmrRunning = s.tmrRunning := rfl
@[simp] theorem sendBusFrame_tmrPeriod (w : Wire) (s : State) : (sendBusFrame w s).tmrPeriod = s.tmrPeriod := rfl
@[simp] theorem sendBusFrame_tmrRemaining (w : Wire) (s : State) : (sendBusFrame w s).tmrRemaining = s.tmrRemaining := rfl
@[simp] theorem sendBusFrame_inputFmt (w : Wire) (s : State) : (sendBusFrame w s).inputFmt = s.inputFmt := rfl
@[simp] theorem sendBusFrame_input (w : Wire) (s : State) : (sendBusFrame w s).input = s.input := rfl
@[simp] theorem sendBusFrame_script (w : Wire) (s : State) : (sendBusFrame w s).script = s.script.tail := rfl
@[simp] theorem sendBusFrame_out (w : Wire) (s : State) : (sendBusFrame w s).out = s.out ++ [.busTx w (nextResp s)] := rfl
@[simp] theorem sendBusFrame_results (w : Wire) (s : State) : (sendBusFrame w s).results = s.results := rfl

/-! `notifyHost`. -/

@[simp] theorem notifyHost_cfg (ext : Bool) (id : Ident) (app : List Byte) (flag : Bool) (s : State) : (notifyHost ext id app flag s).cfg = s.cfg := rfl
@[simp] theorem notifyHost_buf (ext : Bool) (id : Ident) (app : List Byte) (flag : Bool) (s : State) : (notifyHost ext id app flag s).buf = s.buf := rfl
@[simp] theorem notifyHost_count (ext : Bool) (id : Ident) (app : List Byte) (flag : Bool) (s : State) : (notifyHost ext id app flag s).count = s.count := rfl
@[simp] theorem notifyHost_ready (ext : Bool) (id : Ident) (app : List Byte) (flag : Bool) (s : State) : (notifyHost ext id app flag s).ready = s.ready := rfl
@[simp] theorem notifyHost_txCounter (ext : Bool) (id : Ident) (app : List Byte) (flag : Bool) (s : State) : (notifyHost ext id app flag s).txCounter = s.txCounter := rfl
@[simp] theorem notifyHost_repEnabled (ext : Bool) (id : Ident) (app : List Byte) (flag : Bool) (s : State) : (notifyHost ext id app flag s).repEnabled = s.repEnabled := rfl
@[simp] theorem notifyHost_repExt (ext : Bool) (id : Ident) (app : List Byte) (flag : Bool) (s : State) : (notifyHost ext id app flag s).repExt = s.repExt := rfl
@[simp] theorem notifyHost_repId (ext : Bool) (id : Ident) (app : List Byte) (flag : Bool) (s : State) : (notifyHost ext id app flag s).repId = s.repId := rfl
@[simp] theorem notifyHost_repLen (ext : Bool) (id : Ident) (app : List Byte) (flag : Bool) (s : State) : (notifyHost ext id app flag s).repLen = s.repLen := rfl
@[simp] theorem notifyHost_repData (ext : Bool) (id : Ident) (app : List Byte) (flag : Bool) (s : State) : (notifyHost ext id app flag s).repData = s.repData := rfl
@[simp] theorem notifyHost_repPeriod (ext : Bool) (id : Ident) (app : List Byte) (flag : Bool) (s : State) : (notifyHost ext id app flag s).repPeriod = s.repPeriod := rfl
@[simp] theorem notifyHost_trkValid (ext : Bool) (id : Ident) (app : List Byte) (flag : Bool) (s : State) : (notifyHost ext id app flag s).trkValid = s.trkValid := rfl
@[simp] theorem notifyHost_trkId (ext : Bool) (id : Ident) (app : List Byte) (flag : Bool) (s : State) : (notifyHost ext id app flag s).trkId = s.trkId := rfl
@[simp] theorem notifyHost_trkCounter (ext : Bool) (id : Ident) (app : List Byte) (flag : Bool) (s : State) : (notifyHost ext id app flag s).trkCounter = s.trkCounter := rfl
@[simp] theorem notifyHost_attackFlag (ext : Bool) (id : Ident) (app : List Byte) (flag : Bool) (s : State) : (notifyHost ext id app flag s).attackFlag = s.attackFlag := rfl
@[simp] theorem notifyHost_tmrRunning (ext : Bool) (id : Ident) (app : List Byte) (flag : Bool) (s : State) : (notifyHost ext id app flag s).tmrRunning = s.tmrRunning := rfl
@[simp] theorem notifyHost_tmrPeriod (ext : Bool) (id : Ident) (app : List Byte) (flag : Bool) (s : State) : (notifyHost ext id app flag s).tmrPeriod = s.tmrPeriod := rfl
@[simp] theorem notifyHost_tmrRemaining (ext : Bool) (id : Ident) (app : List Byte) (flag : Bool) (s : State) : (notifyHost ext id app flag s).tmrRemaining = s.tmrRemaining := rfl
@[simp] theorem notifyHost_inputFmt (ext : Bool) (id : Ident) (app : List Byte) (flag : Bool) (s : State) : (notifyHost ext id app flag s).inputFmt = s.inputFmt := rfl
@[simp] theorem notifyHost_input (ext : Bool) (id : Ident) (app : List Byte) (flag : Bool) (s : State) : (notifyHost ext id app flag s).input = s.input := rfl
@[simp] theorem notifyHost_script (ext : Bool) (id : Ident) (app : List Byte) (flag : Bool) (s : State) : (notifyHost ext id app flag s).script = s.script := rfl
@[simp] theorem notifyHost_out (ext : Bool) (id : Ident) (app : List Byte) (flag : Bool) (s : State) : (notifyHost ext id app flag s).out = s.out ++ [.hostTx (ntfBytes ext id app flag)] := rfl
@[simp] theorem notifyHost_results (ext : Bool) (id : Ident) (app : List Byte) (flag : Bool) (s : State) : (notifyHost ext id app flag s).results = s.results := rfl

/-! `report`. -/

@[simp] theorem report_cfg (r : FeedStatus) (s : State) : (report r s).cfg = s.cfg := rfl
@[simp] theorem report_buf (r : FeedStatus) (s : State) : (report r s).buf = s.buf := rfl
@[simp] theorem report_count (r : FeedStatus) (s : State) : (report r s).count = s.count := rfl
@[simp] theorem report_ready (r : FeedStatus) (s : State) : (report r s).ready = s.ready := rfl
@[simp] theorem report_txCounter (r : FeedStatus) (s : State) : (report r s).txCounter = s.txCounter := rfl
@[simp] theorem report_repEnabled (r : FeedStatus) (s : State) : (report r s).repEnabled = s.repEnabled := rfl
@[simp] theorem report_repExt (r : FeedStatus) (s : State) : (report r s).repExt = s.repExt := rfl
@[simp] theorem report_repId (r : FeedStatus) (s : State) : (report r s).repId = s.repId := rfl
@[simp] theorem report_repLen (r : FeedStatus) (s : State) : (report r s).repLen = s.repLen := rfl
@[simp] theorem report_repData (r : FeedStatus) (s : State) : (report r s).repData = s.repData := rfl
@[simp] theorem report_repPeriod (r : FeedStatus) (s : State) : (report r s).repPeriod = s.repPeriod := rfl
@[simp] theorem report_trkValid (r : FeedStatus) (s : State) : (report r s).trkValid = s.trkValid := rfl
@[simp] theorem report_trkId (r : FeedStatus) (s : State) : (report r s).trkId = s.trkId := rfl
@[simp] theorem report_trkCounter (r : FeedStatus) (s : State) : (report r s).trkCounter = s.trkCounter := rfl
@[simp] theorem report_attackFlag (r : FeedStatus) (s : State) : (report r s).attackFlag = s.attackFlag := rfl
@[simp] theorem report_tmrRunning (r : FeedStatus) (s : State) : (report r s).tmrRunning = s.tmrRunning := rfl
@[simp] theorem report_tmrPeriod (r : FeedStatus) (s : State) : (report r s).tmrPeriod = s.tmrPeriod := rfl
@[simp] theorem report_tmrRemaining (r : FeedStatus) (s : State) : (report r s).tmrRemaining = s.tmrRemaining := rfl
@[simp] theorem report_inputFmt (r : FeedStatus) (s : State) : (report r s).inputFmt = s.inputFmt := rfl
@[simp] theorem report_input (r : FeedStatus) (s : State) : (report r s).input = s.input := rfl
@[simp] theorem report_script (r : FeedStatus) (s : State) : (report r s).script = s.script := rfl
@[simp] theorem report_out (r : FeedStatus) (s : State) : (report r s).out = s.out ++ [.feedStatus r] := rfl
@[simp] theorem report_results (r : FeedStatus) (s : State) : (report r s).results = s.results := rfl

/-! `rejectFrame`. -/

@[simp] theorem rejectFrame_cfg (s : State) : (rejectFrame s).cfg = s.cfg := rfl
@[simp] theorem rejectFrame_buf (s : State) : (rejectFrame s).buf = s.buf := rfl
@[simp] theorem rejectFrame_count (s : State) : (rejectFrame s).count = 0 := rfl
@[simp] theorem rejectFrame_ready (s : State) : (rejectFrame s).ready = false := rfl
@[simp] theorem rejectFrame_txCounter (s : State) : (rejectFrame s).txCounter = s.txCounter := rfl
@[simp] theorem rejectFrame_repEnabled (s : State) : (rejectFrame s).repEnabled = s.repEnabled := rfl
@[simp] theorem rejectFrame_repExt (s : State) : (rejectFrame s).repExt = s.repExt := rfl
@[simp] theorem rejectFrame_repId (s : State) : (rejectFrame s).repId = s.repId := rfl
@[simp] theorem rejectFrame_repLen (s : State) : (rejectFrame s).repLen = s.repLen := rfl
@[simp] theorem rejectFrame_repData (s : State) : (rejectFrame s).repData = s.repData := rfl
@[simp] theorem rejectFrame_repPeriod (s : State) : (rejectFrame s).repPeriod = s.repPeriod := rfl
@[simp] theorem rejectFrame_trkValid (s : State) : (rejectFrame s).trkValid = s.trkValid := rfl
@[simp] theorem rejectFrame_trkId (s : State) : (rejectFrame s).trkId = s.trkId := rfl
@[simp] theorem rejectFrame_trkCounter (s : State) : (rejectFrame s).trkCounter = s.trkCounter := rfl
@[simp] theorem rejectFrame_attackFlag (s : State) : (rejectFrame s).attackFlag = s.attackFlag := rfl
@[simp] theorem rejectFrame_tmrRunning (s : State) : (rejectFrame s).tmrRunning = s.tmrRunning := rfl
@[simp] theorem rejectFrame_tmrPeriod (s : State) : (rejectFrame s).tmrPeriod = s.tmrPeriod := rfl
@[simp] theorem rejectFrame_tmrRemaining (s : State) : (rejectFrame s).tmrRemaining = s.tmrRemaining := rfl
@[simp] theorem rejectFrame_inputFmt (s : State) : (rejectFrame s).inputFmt = s.inputFmt := rfl
@[simp] theorem rejectFrame_input (s : State) : (rejectFrame s).input = s.input := rfl
@[simp] theorem rejectFrame_script (s : State) : (rejectFrame s).script = s.script := rfl
@[simp] theorem rejectFrame_out (s : State) : (rejectFrame s).out = s.out ++ [.feedStatus .invalid] := rfl
@[simp] theorem rejectFrame_results (s : State) : (rejectFrame s).results = s.results := rfl

/-! `emitTimer`. -/

@[simp] theorem emitTimer_cfg (c : TimerCmd) (s : State) : (emitTimer c s).cfg = s.cfg := by
  unfold emitTimer; split <;> cases c <;> rfl
@[simp] theorem emitTimer_buf (c : TimerCmd) (s : State) : (emitTimer c s).buf = s.buf := by
  unfold emitTimer; split <;> cases c <;> rfl
@[simp] theorem emitTimer_count (c : TimerCmd) (s : State) : (emitTimer c s).count = s.count := by
  unfold emitTimer; split <;> cases c <;> rfl
@[simp] theorem emitTimer_ready (c : TimerCmd) (s : State) : (emitTimer c s).ready = s.ready := by
  unfold emitTimer; split <;> cases c <;> rfl
@[simp] theorem emitTimer_txCounter (c : TimerCmd) (s : State) : (emitTimer c s).txCounter = s.txCounter := by
  unfold emitTimer; split <;> cases c <;> rfl
@[simp] theorem emitTimer_repEnabled (c : TimerCmd) (s : State) : (emitTimer c s).repEnabled = s.repEnabled := by
  unfold emitTimer; split <;> cases c <;> rfl
@[simp] theorem emitTimer_repExt (c : TimerCmd) (s : State) : (emitTimer c s).repExt = s.repExt := by
  unfold emitTimer; split <;> cases c <;> rfl
@[simp] theorem emitTimer_repId (c : TimerCmd) (s : State) : (emitTimer c s).repId = s.repId := by
  unfold emitTimer; split <;> cases c <;> rfl
@[simp] theorem emitTimer_repLen (c : TimerCmd) (s : State) : (emitTimer c s).repLen = s.repLen := by
  unfold emitTimer; split <;> cases c <;> rfl
@[simp] theorem emitTimer_repData (c : TimerCmd) (s : State) : (emitTimer c s).repData = s.repData := by
  unfold emitTimer; split <;> cases c <;> rfl
@[simp] theorem emitTimer_repPeriod (c : TimerCmd) (s : State) : (emitTimer c s).repPeriod = s.repPeriod := by
  unfold emitTimer; split <;> cases c <;> rfl
@[simp] theorem emitTimer_trkValid (c : TimerCmd) (s : State) : (emitTimer c s).trkValid = s.trkValid := by
  unfold emitTimer; split <;> cases c <;> rfl
@[simp] theorem emitTimer_trkId (c : TimerCmd) (s : State) : (emitTimer c s).trkId = s.trkId := by
  unfold emitTimer; split <;> cases c <;> rfl
@[simp] theorem emitTimer_trkCounter (c : TimerCmd) (s : State) : (emitTimer c s).trkCounter = s.trkCounter := by
  unfold emitTimer; split <;> cases c <;> rfl
@[simp] theorem emitTimer_attackFlag (c : TimerCmd) (s : State) : (emitTimer c s).attackFlag = s.attackFlag := by
  unfold emitTimer; split <;> cases c <;> rfl
@[simp] theorem emitTimer_inputFmt (c : TimerCmd) (s : State) : (emitTimer c s).inputFmt = s.inputFmt := by
  unfold emitTimer; split <;> cases c <;> rfl
@[simp] theorem emitTimer_input (c : TimerCmd) (s : State) : (emitTimer c s).input = s.input := by
  unfold emitTimer; split <;> cases c <;> rfl
@[simp] theorem emitTimer_script (c : TimerCmd) (s : State) : (emitTimer c s).script = s.script := by
  unfold emitTimer; split <;> cases c <;> rfl
@[simp] theorem emitTimer_out (c : TimerCmd) (s : State) : (emitTimer c s).out = s.out ++ [.timerCtl c] := by
  unfold emitTimer; split <;> cases c <;> rfl
@[simp] theorem emitTimer_results (c : TimerCmd) (s : State) : (emitTimer c s).results = s.results := by
  unfold emitTimer; split <;> cases c <;> rfl

/-- The timer commands under each timer model (42_repeat_scheduler R110). -/
theorem emitTimer_external (c : TimerCmd) (s : State) (h : s.cfg.timerModel = .external) :
    emitTimer c s = { s with out := s.out ++ [.timerCtl c] } := by
  simp [emitTimer, h, emit]

theorem emitTimer_stop_internal (s : State) (h : s.cfg.timerModel = .internalMs) :
    emitTimer .stop s = { s with tmrRunning := false, out := s.out ++ [.timerCtl .stop] } := by
  simp [emitTimer, h, emit, applyTimer]

theorem emitTimer_arm_internal (p : Half) (s : State) (h : s.cfg.timerModel = .internalMs) :
    emitTimer (.arm p) s =
      { s with tmrRunning := true, tmrPeriod := some p, tmrRemaining := some p, out := s.out ++ [.timerCtl (.arm p)] } := by
  simp [emitTimer, h, emit, applyTimer]

end Sys2Proof.Machine
end

