-- ==== Sys2Proof/Laws/Ops.lean ====
section
/-! SUPPORT. What the shared reads and writes of Machine/Ops.lean can answer, said once each. -/

namespace Sys2Proof.Machine

@[simp] theorem finish_ok (s : State) : finish (.ok s) = .next s := rfl

@[simp] theorem finish_error (f : Fault) : finish (.error f) = .fault f := rfl

theorem finish_next_iff (r : Except Fault State) (s : State) : finish r = .next s ↔ r = .ok s := by
  cases r <;> simp [finish]

theorem finish_fault_iff (r : Except Fault State) (f : Fault) : finish r = .fault f ↔ r = .error f := by
  cases r <;> simp [finish]

theorem finish_ne_refused (r : Except Fault State) (q : Refusal) : finish r ≠ .refused q := by
  cases r <;> simp [finish]

@[simp] theorem bind_ok {α β : Type} (a : α) (k : α → Except Fault β) : (Except.ok a >>= k) = k a := rfl

@[simp] theorem bind_error {α β : Type} (f : Fault) (k : α → Except Fault β) : (Except.error f >>= k) = .error f := rfl

theorem bind_eq_ok {α β : Type} (x : Except Fault α) (k : α → Except Fault β) (b : β) :
    (x >>= k) = .ok b ↔ ∃ a, x = .ok a ∧ k a = .ok b := by
  cases x <;> simp

@[simp] theorem readValue_some {α : Type} (e : Element) (a : α) : readValue e (some a) = .ok a := rfl

theorem readValue_eq_ok {α : Type} (e : Element) (v : Option α) (a : α) : readValue e v = .ok a ↔ v = some a := by
  cases v <;> simp [readValue]

/-- A read of a byte answers exactly the byte the position holds. -/
theorem readCell_eq_ok (e : Element) (cells : Cells) (k : Nat) (b : Byte) :
    readCell e cells k = .ok b ↔ byteAt cells k = some b := by
  unfold readCell byteAt
  cases cells[k]? with
  | none => simp
  | some v => cases v <;> simp [readValue]

theorem readCell_of_byteAt {e : Element} {cells : Cells} {k : Nat} {b : Byte} (h : byteAt cells k = some b) :
    readCell e cells k = .ok b := (readCell_eq_ok e cells k b).mpr h

/-- A position past the end holds nothing. -/
theorem byteAt_of_length_le (cells : Cells) (k : Nat) (h : cells.length ≤ k) : byteAt cells k = none := by
  simp [byteAt, List.getElem?_eq_none h]

theorem lt_length_of_byteAt {cells : Cells} {k : Nat} (h : (byteAt cells k).isSome = true) : k < cells.length := by
  by_contra hk
  rw [byteAt_of_length_le cells k (by omega)] at h
  simp at h

theorem byteAt_set_self (cells : Cells) (k : Nat) (b : Byte) (h : k < cells.length) :
    byteAt (cells.set k (some b)) k = some b := by
  simp [byteAt, List.getElem?_set_self h]

theorem byteAt_set_ne (cells : Cells) (k j : Nat) (b : Byte) (h : k ≠ j) :
    byteAt (cells.set k (some b)) j = byteAt cells j := by
  simp [byteAt, List.getElem?_set_ne h]

/-- Storing the next byte keeps every position up to it held. -/
theorem held_set (cells : Cells) (n : Nat) (b : Byte) (hn : n < cells.length)
    (h : ∀ k, k < n → (byteAt cells k).isSome = true) :
    ∀ k, k < n + 1 → (byteAt (cells.set n (some b)) k).isSome = true := by
  intro k hk
  by_cases he : n = k
  · subst he; simp [byteAt_set_self _ _ b hn]
  · rw [byteAt_set_ne _ _ _ _ he]; exact h k (by omega)

theorem byteAt_map_append (bs : List Byte) (rest : Cells) (k : Nat) (h : k < bs.length) :
    byteAt (bs.map some ++ rest) k = bs[k]? := by
  simp [byteAt, List.getElem?_append_left, h]

/-- The cells beyond a written prefix are as before. -/
theorem byteAt_map_append_right (bs : List Byte) (rest : Cells) (k : Nat) (h : bs.length ≤ k) :
    byteAt (bs.map some ++ rest) k = byteAt rest (k - bs.length) := by
  simp [byteAt, List.getElem?_append_right, h]

@[simp] theorem readCells_zero (e : Element) (cells : Cells) (k : Nat) : readCells e cells k 0 = .ok [] := rfl

/-- A read of a run of bytes answers exactly the bytes held there. -/
theorem readCells_eq_ok (e : Element) (cells : Cells) (n : Nat) : ∀ (k : Nat) (bs : List Byte),
    readCells e cells k n = .ok bs ↔ bs.length = n ∧ ∀ j, j < n → byteAt cells (k + j) = bs[j]? := by
  induction n with
  | zero =>
    intro k bs
    simp only [readCells, Except.ok.injEq]
    constructor
    · rintro rfl; simp
    · rintro ⟨h, -⟩; exact (List.length_eq_zero_iff.mp h).symm
  | succ n ih =>
    intro k bs
    constructor
    · intro h
      simp only [readCells] at h
      cases hb : readCell e cells k with
      | error f => simp [hb] at h
      | ok b =>
        cases hr : readCells e cells (k + 1) n with
        | error f => simp [hb, hr] at h
        | ok rest =>
          simp only [hb, hr, Except.ok.injEq] at h
          subst h
          obtain ⟨hl, hj⟩ := (ih (k + 1) rest).mp hr
          refine ⟨by simp [hl], fun j hlt => ?_⟩
          cases j with
          | zero => simpa using (readCell_eq_ok e cells k b).mp hb
          | succ j => simpa [Nat.add_assoc, Nat.add_comm 1 j] using hj j (by omega)
    · rintro ⟨hl, hj⟩
      obtain ⟨b, rest, rfl⟩ : ∃ b rest, bs = b :: rest := by
        cases bs with
        | nil => simp at hl
        | cons b rest => exact ⟨b, rest, rfl⟩
      have hb : readCell e cells k = .ok b := readCell_of_byteAt (by simpa using hj 0 (by omega))
      have hr : readCells e cells (k + 1) n = .ok rest :=
        (ih (k + 1) rest).mpr ⟨by simpa using hl, fun j hlt => by
          simpa [Nat.add_assoc, Nat.add_comm 1 j] using hj (j + 1) (by omega)⟩
      simp [readCells, hb, hr]

/-- A run of held bytes can be read. -/
theorem readCells_of_held (e : Element) (cells : Cells) (n : Nat) : ∀ (k : Nat),
    (∀ j, j < n → (byteAt cells (k + j)).isSome = true) → ∃ bs, readCells e cells k n = .ok bs := by
  induction n with
  | zero => intro k _; exact ⟨[], rfl⟩
  | succ n ih =>
    intro k h
    obtain ⟨b, hb⟩ := Option.isSome_iff_exists.mp (h 0 (by omega))
    rw [Nat.add_zero] at hb
    obtain ⟨bs, hbs⟩ := ih (k + 1) (fun j hj => by
      simpa [Nat.add_assoc, Nat.add_comm 1 j] using h (j + 1) (by omega))
    exact ⟨b :: bs, by simp [readCells, readCell_of_byteAt (e := e) hb, hbs]⟩

/-- A run of bytes that stands in the array after a prefix is what a read from there gives. -/
theorem readCells_append (e : Element) (pre bs : List Byte) (rest : Cells) :
    readCells e (pre.map some ++ (bs.map some ++ rest)) pre.length bs.length = .ok bs := by
  refine (readCells_eq_ok e _ _ _ _).mpr ⟨rfl, fun j hj => ?_⟩
  rw [byteAt_map_append_right _ _ _ (by omega), Nat.add_sub_cancel_left, byteAt_map_append _ _ _ hj]

theorem writeCell_eq_ok (e : Element) (cells : Cells) (k : Nat) (b : Byte) (cells' : Cells) :
    writeCell e cells k b = .ok cells' ↔ k < cells.length ∧ cells' = cells.set k (some b) := by
  unfold writeCell
  split <;> simp_all [eq_comm]

theorem writeCell_of_lt {e : Element} {cells : Cells} {k : Nat} (b : Byte) (h : k < cells.length) :
    writeCell e cells k b = .ok (cells.set k (some b)) := by simp [writeCell, h]

/-- Writing a prefix that fits keeps the array's length. -/
theorem writePrefix_length (cells : Cells) (bs : List Byte) (h : bs.length ≤ cells.length) :
    (writePrefix cells bs).length = cells.length := by
  simp [writePrefix]; omega

theorem byteAt_writePrefix (cells : Cells) (bs : List Byte) (k : Nat) (h : k < bs.length) :
    byteAt (writePrefix cells bs) k = bs[k]? := byteAt_map_append bs _ k h

/-- Storing the next byte while there is room. -/
theorem storeByte_of_lt (b : Byte) (s : State) (h : s.count < s.buf.length) :
    storeByte b s = .ok { s with buf := s.buf.set s.count (some b), count := s.count + 1 } := by
  simp [storeByte, writeCell_of_lt b h]

theorem storeByte_eq_ok (b : Byte) (s t : State) :
    storeByte b s = .ok t ↔
      s.count < s.buf.length ∧ t = { s with buf := s.buf.set s.count (some b), count := s.count + 1 } := by
  by_cases h : s.count < s.buf.length
  · simp [storeByte_of_lt b s h, h, eq_comm]
  · simp [storeByte, writeCell, h]

end Sys2Proof.Machine
end

