-- ==== Sys2Proof/Laws/Assembler.lean ====
section
/-! SUPPORT. What FEED can do, said once: every case of 40_serial_assembler R81, and what a run of FEEDs leaves alone. -/

namespace Sys2Proof.Machine

theorem feedByte_drop (b : Byte) (s : State) (hr : s.ready = true) (hw : s.cfg.feedWhileReady = .drop) :
    feedByte b s = .ok (report .complete s) := by simp [feedByte, hr, hw]

theorem feedByte_append (b : Byte) (s : State) (hr : s.ready = true) (hw : s.cfg.feedWhileReady = .append)
    (hc : s.count ≠ s.cfg.ceil) (hb : s.count < s.buf.length) :
    feedByte b s =
      .ok (report .complete { s with buf := s.buf.set s.count (some b), count := s.count + 1 }) := by
  simp [feedByte, hr, hw, hc, storeByte_of_lt b s hb]

theorem feedByte_ceiling (b : Byte) (s : State) (hc : s.count = s.cfg.ceil)
    (hd : ¬ (s.ready = true ∧ s.cfg.feedWhileReady = .drop)) : feedByte b s = .ok (rejectFrame s) := by
  cases hr : s.ready with
  | false => simp [feedByte, hr, hc]
  | true =>
    cases hw : s.cfg.feedWhileReady with
    | drop => exact absurd ⟨hr, hw⟩ hd
    | append => simp [feedByte, hr, hw, hc]

/-- While accumulating FEED stores the byte and evaluates what it then holds (40_serial_assembler R82). -/
theorem feedByte_accumulate (b : Byte) (s : State) (hr : s.ready = false) (hc : s.count ≠ s.cfg.ceil)
    (hb : s.count < s.buf.length) :
    feedByte b s = evaluate { s with buf := s.buf.set s.count (some b), count := s.count + 1 } := by
  simp [feedByte, hr, hc, storeByte_of_lt b s hb]

theorem evaluate_short (s : State) (h : s.count < 6) : evaluate s = .ok (report .incomplete s) := by
  simp [evaluate, Config.minFrame, h]

/-- The evaluation of six or more bytes, by the bytes at positions 0, 3 and 5 (40_serial_assembler R83, R84). -/
theorem evaluate_of_bytes (s : State) (b0 b3 b5 : Byte) (h : 6 ≤ s.count) (h0 : byteAt s.buf 0 = some b0)
    (h3 : byteAt s.buf 3 = some b3) (h5 : byteAt s.buf 5 = some b5) :
    evaluate s = .ok (if badRequest b0 b3 b5 then rejectFrame s
      else if s.count = (if b0 = 0x00#8 then 6 + b3.toNat else 8 + b5.toNat) then report .complete { s with ready := true }
      else report .incomplete s) := by
  have hc : ¬ s.count < Config.minFrame := by simp [Config.minFrame]; omega
  simp only [evaluate, hc, if_false, readCell_of_byteAt h0, readCell_of_byteAt h3, readCell_of_byteAt h5, bind_ok, badRequest,
    judgeLength]
  by_cases hz : b0 = 0x00#8
  · by_cases hl : Config.maxCmdPayload < b3.toNat <;> simp [hz, hl]
  · by_cases ho : b0 = 0x01#8
    · by_cases hl : Config.maxCmdPayload < b5.toNat <;> simp [ho, hl]
    · simp [hz, ho]

/-- An evaluation that answers a state writes at most `count` and `ready`, and returns one status. -/
theorem evaluate_frame (s t : State) (h : evaluate s = .ok t) :
    ∃ r, t = { s with count := t.count, ready := t.ready, out := s.out ++ [.feedStatus r] } := by
  have hj : ∀ (base : Nat) (len : Byte), ∃ r, judgeLength base len s =
      { s with count := (judgeLength base len s).count, ready := (judgeLength base len s).ready,
               out := s.out ++ [.feedStatus r] } := by
    intro base len
    unfold judgeLength
    split
    · exact ⟨.invalid, rfl⟩
    · split
      · exact ⟨.complete, rfl⟩
      · exact ⟨.incomplete, rfl⟩
  unfold evaluate at h
  split at h
  · simp only [Except.ok.injEq] at h; subst h; exact ⟨.incomplete, rfl⟩
  · obtain ⟨mode, -, h⟩ := (bind_eq_ok _ _ _).mp h
    split at h
    · obtain ⟨len, -, h⟩ := (bind_eq_ok _ _ _).mp h
      simp only [Except.ok.injEq] at h; subst h; exact hj 6 len
    · split at h
      · obtain ⟨len, -, h⟩ := (bind_eq_ok _ _ _).mp h
        simp only [Except.ok.injEq] at h; subst h; exact hj 8 len
      · simp only [Except.ok.injEq] at h; subst h; exact ⟨.invalid, rfl⟩

/-- Everything a FEED that completes can do: the buffer is as before or has the byte at `count`, and beside it only `count`,
`ready` and one status change (40_serial_assembler R79). -/
theorem feedByte_frame (b : Byte) (s t : State) (h : feedByte b s = .ok t) :
    (t.buf = s.buf ∨ t.buf = s.buf.set s.count (some b)) ∧
    ∃ r, t = { s with buf := t.buf, count := t.count, ready := t.ready, out := s.out ++ [.feedStatus r] } := by
  have hstore : ∀ (k : State → Except Fault State) (u : State), (storeByte b s >>= k) = .ok u →
      k { s with buf := s.buf.set s.count (some b), count := s.count + 1 } = .ok u := by
    intro k u hu
    obtain ⟨s', hs', hk⟩ := (bind_eq_ok _ _ _).mp hu
    rw [((storeByte_eq_ok b s s').mp hs').2] at hk
    exact hk
  unfold feedByte at h
  split at h
  · split at h
    · simp only [Except.ok.injEq] at h; subst h; exact ⟨.inl rfl, .complete, rfl⟩
    · split at h
      · simp only [Except.ok.injEq] at h; subst h; exact ⟨.inl rfl, .invalid, rfl⟩
      · have h' := hstore _ _ h
        simp only [Except.ok.injEq] at h'; subst h'; exact ⟨.inr rfl, .complete, rfl⟩
  · split at h
    · simp only [Except.ok.injEq] at h; subst h; exact ⟨.inl rfl, .invalid, rfl⟩
    · obtain ⟨r, hr⟩ := evaluate_frame _ _ (hstore _ _ h)
      refine ⟨.inr (by rw [hr]), r, ?_⟩
      rw [hr]

@[simp] theorem feedBytes_nil (s : State) : feedBytes [] s = .ok s := rfl

theorem feedBytes_cons_ok {b : Byte} {s t : State} (bs : List Byte) (h : feedByte b s = .ok t) :
    feedBytes (b :: bs) s = feedBytes bs t := by simp [feedBytes, h]

theorem feedBytes_cons_eq_ok (b : Byte) (bs : List Byte) (s t : State) :
    feedBytes (b :: bs) s = .ok t ↔ ∃ u, feedByte b s = .ok u ∧ feedBytes bs u = .ok t := by
  simp only [feedBytes]
  cases feedByte b s <;> simp

theorem feedBytes_append (as bs : List Byte) : ∀ (s t : State), feedBytes as s = .ok t →
    feedBytes (as ++ bs) s = feedBytes bs t := by
  induction as with
  | nil => intro s t h; simp only [feedBytes, Except.ok.injEq] at h; subst h; rfl
  | cons a as ih =>
    intro s t h
    obtain ⟨u, hu, ht⟩ := (feedBytes_cons_eq_ok a as s t).mp h
    rw [List.cons_append, feedBytes_cons_ok _ hu, ih u t ht]

/-- A run of FEEDs touches only the assembler and its status output. -/
theorem feedBytes_frame (bs : List Byte) : ∀ (s t : State), feedBytes bs s = .ok t →
    ∃ rs : List FeedStatus,
      t = { s with buf := t.buf, count := t.count, ready := t.ready, out := s.out ++ rs.map .feedStatus } := by
  induction bs with
  | nil =>
    intro s t h
    simp only [feedBytes, Except.ok.injEq] at h; subst h
    exact ⟨[], by simp⟩
  | cons b bs ih =>
    intro s t h
    obtain ⟨u, hu, ht⟩ := (feedBytes_cons_eq_ok b bs s t).mp h
    obtain ⟨-, r, hr⟩ := feedByte_frame b s u hu
    obtain ⟨rs, hrs⟩ := ih u t ht
    refine ⟨r :: rs, ?_⟩
    rw [hrs, hr]
    simp

end Sys2Proof.Machine
end

