-- ==== Sys2Proof/Laws/Codec.lean ====
section
/-! SUPPORT. What the two functions of the codec can answer. -/

namespace Sys2Proof.Machine

theorem wireLength_le (dlcw : Word) : wireLength dlcw ≤ 8 := Nat.min_le_right _ _

@[simp] theorem decodeFrame_length (layout : IdWordLayout) (w : Wire) :
    (decodeFrame layout w).data.length = wireLength w.dlcw := by
  have := wireLength_le w.dlcw
  simp only [decodeFrame, List.length_take, List.length_append, leBytes32_length]
  omega

/-- A decoded standard identifier is 11 bits wide (43_bus_codec R117). -/
theorem decodeFrame_std_width (layout : IdWordLayout) (w : Wire) (h : (decodeFrame layout w).ext = false) :
    (decodeFrame layout w).id.toNat < 2 ^ 11 := by
  cases layout
  simp only [decodeFrame, readIdWord] at h ⊢
  split at h
  · simp at h
  · rename_i hi
    rw [if_neg hi]
    simp only [BitVec.toNat_setWidth]
    omega

/-- The bytes of a data word are the payload's four bytes from its position on, zero where there is none (43_bus_codec R114). -/
theorem leBytes32_dataWord (data : List Byte) (k : Nat) :
    leBytes32 (dataWord data k) = [data.getD k 0, data.getD (k + 1) 0, data.getD (k + 2) 0, data.getD (k + 3) 0] := by
  simp [dataWord]

theorem encodeFrame_dlcw (layout : IdWordLayout) (ext : Bool) (id : Ident) (data : List Byte) :
    (encodeFrame layout ext id data).dlcw = BitVec.ofNat 32 (min 8 data.length) := by
  simp [encodeFrame]

end Sys2Proof.Machine
end

