-- ==== Sys2Proof/Laws/Inbound.lean ====
section
/-! SUPPORT. What CHECK and BUS_RX can do, said once each. -/

namespace Sys2Proof.Machine

@[simp] theorem attack_eq (r : CheckResult) : r.attack = decide (r = .suspectedReplay) := by cases r <;> rfl

/-- The verdict is a suspected replay exactly on equal counters (44_replay_guard R126). -/
theorem verdict_eq (c last : Byte) : verdict c last = if c = last then .suspectedReplay else .clean := by
  have h : c - last = 0 ↔ c = last := by
    constructor
    · intro h
      have := congrArg (· + last) h
      simpa using this
    · rintro rfl; simp
  simp only [verdict, h]

/-- CHECK on a stream that is not tracked (44_replay_guard R125). -/
theorem check_new (id : Ident) (c : Byte) (s : State) (h : s.trkValid = false ∨ ∃ last, s.trkId = some last ∧ id ≠ last) :
    check id c s = .ok (.clean, track id c .clean s) := by
  cases hv : s.trkValid with
  | false => simp [check, hv]
  | true =>
    obtain h | ⟨last, hl, hne⟩ := h
    · simp [hv] at h
    · simp [check, hv, hl, hne]

/-- CHECK on the tracked stream (44_replay_guard R126, R127). -/
theorem check_tracked (id : Ident) (c last : Byte) (s : State) (hv : s.trkValid = true) (hi : s.trkId = some id)
    (hc : s.trkCounter = some last) : check id c s = .ok (verdict c last, track id c (verdict c last) s) := by
  simp [check, hv, hi, hc]

/-- Everything a CHECK that completes can do (44_replay_guard R123): the tracker takes the frame's identifier and counter, and
the verdict is a suspected replay exactly when they were the tracked ones. -/
theorem check_cases (id : Ident) (c : Byte) (s : State) (r : CheckResult) (t : State) (h : check id c s = .ok (r, t)) :
    t = track id c r s ∧
    (r = .suspectedReplay ↔ s.trkValid = true ∧ s.trkId = some id ∧ s.trkCounter = some c) := by
  unfold check at h
  split at h
  · rename_i hv
    obtain ⟨last, hl, h⟩ := (bind_eq_ok _ _ _).mp h
    have hl := (readValue_eq_ok _ _ _).mp hl
    split at h
    · rename_i heq
      obtain ⟨lc, hlc, h⟩ := (bind_eq_ok _ _ _).mp h
      have hlc := (readValue_eq_ok _ _ _).mp hlc
      simp only [Except.ok.injEq, Prod.mk.injEq] at h
      obtain ⟨rfl, rfl⟩ := h
      refine ⟨rfl, ?_⟩
      subst heq
      rw [verdict_eq, hl, hlc]
      by_cases hcc : c = lc
      · simp [hcc, hv]
      · simp [hcc, hv, Ne.symm hcc]
    · rename_i hne
      simp only [Except.ok.injEq, Prod.mk.injEq] at h
      obtain ⟨rfl, rfl⟩ := h
      refine ⟨rfl, ?_⟩
      simp [hl, Ne.symm hne]
  · rename_i hv
    simp only [Except.ok.injEq, Prod.mk.injEq] at h
    obtain ⟨rfl, rfl⟩ := h
    exact ⟨rfl, by simp [hv]⟩

/-- CHECK completes when a tracked stream has an identifier and a counter (10_state R30). -/
theorem check_completes (id : Ident) (c : Byte) (s : State)
    (h : s.trkValid = true → ∃ i k, s.trkId = some i ∧ s.trkCounter = some k) :
    ∃ r, check id c s = .ok (r, track id c r s) := by
  cases hv : s.trkValid with
  | false => exact ⟨.clean, check_new id c s (.inl hv)⟩
  | true =>
    obtain ⟨i, k, hi, hk⟩ := h hv
    by_cases hid : id = i
    · subst hid; exact ⟨_, check_tracked id c k s hv hi hk⟩
    · exact ⟨.clean, check_new id c s (.inr ⟨i, hi, hid⟩)⟩

/-- The state after a notified frame (45_inbound_processor R131). -/
def afterNotify (f : BusFrame) (sq : Byte) (r : CheckResult) (s : State) : State :=
  notifyHost f.ext f.id f.data.dropLast (decide (r = .suspectedReplay)) { track f.id sq r s with attackFlag := false }

@[simp] theorem relay_empty (f : BusFrame) (s : State) (h : f.data = []) : relay f s = .ok s := by simp [relay, h]

theorem relay_of_check {f : BusFrame} {sq : Byte} {s : State} {r : CheckResult} (hl : f.data.getLast? = some sq)
    (h : check f.id sq s = .ok (r, track f.id sq r s)) : relay f s = .ok (afterNotify f sq r s) := by
  simp [relay, hl, h, afterNotify]

/-- Everything a BUS_RX that completes can do (45_inbound_processor R131, R132). -/
theorem relay_cases (f : BusFrame) (s t : State) (h : relay f s = .ok t) :
    (f.data = [] ∧ t = s) ∨
    ∃ sq r, f.data.getLast? = some sq ∧
      (r = .suspectedReplay ↔ s.trkValid = true ∧ s.trkId = some f.id ∧ s.trkCounter = some sq) ∧
      t = afterNotify f sq r s := by
  unfold relay at h
  split at h
  · rename_i hn
    simp only [Except.ok.injEq] at h
    exact .inl ⟨List.getLast?_eq_none_iff.mp hn, h.symm⟩
  · rename_i sq hs
    obtain ⟨⟨r, u⟩, hc, h⟩ := (bind_eq_ok _ _ _).mp h
    obtain ⟨rfl, hr⟩ := check_cases _ _ _ _ _ hc
    simp only [Except.ok.injEq] at h
    refine .inr ⟨sq, r, hs, hr, ?_⟩
    rw [← h]
    simp [afterNotify]

end Sys2Proof.Machine
end

