-- ==== Sys2Proof/Laws/Operands.lean ====
section
/-! SUPPORT. What a read of the waiting request frame can answer, and when it can answer. -/

namespace Sys2Proof.Machine

/-- A body whose bytes are held is read (30_encoding R55, R59, R60). -/
theorem readBody_of_held (ext : Bool) (id : Ident) (len : Byte) (hdr : Nat) (cells : Cells) (hl : len.toNat ≤ 7)
    (h : ∀ k, k < hdr + len.toNat + 2 → (byteAt cells k).isSome = true) :
    ∃ payload hi lo, readBody ext id len hdr cells = .ok ⟨ext, id, payload, be16 hi lo⟩ ∧ payload.length = len.toNat := by
  obtain ⟨payload, hp⟩ := readCells_of_held .buf cells len.toNat hdr (fun j hj => h _ (by omega))
  obtain ⟨hi, hhi⟩ := Option.isSome_iff_exists.mp (h (hdr + len.toNat) (by omega))
  obtain ⟨lo, hlo⟩ := Option.isSome_iff_exists.mp (h (hdr + len.toNat + 1) (by omega))
  refine ⟨payload, hi, lo, ?_, ((readCells_eq_ok _ _ _ _ _).mp hp).1⟩
  have hnot : ¬ Config.maxCmdPayload < len.toNat := by simp [Config.maxCmdPayload]; omega
  simp [readBody, hnot, hp, readCell_of_byteAt hhi, readCell_of_byteAt hlo]

/-- Every request that is read has at most 7 payload bytes, and a standard one has an 11-bit identifier (41_command_dispatch
R92, R98). -/
theorem readRequest_ok (cells : Cells) (r : Request) (h : readRequest cells = .ok r) :
    r.payload.length ≤ 7 ∧ (r.ext = false → r.id.toNat < 2 ^ 11) := by
  have hbody : ∀ (ext : Bool) (id : Ident) (len : Byte) (hdr : Nat), readBody ext id len hdr cells = .ok r →
      r.payload.length ≤ 7 ∧ r.ext = ext ∧ r.id = id := by
    intro ext id len hdr hb
    unfold readBody at hb
    split at hb
    · simp at hb
    · rename_i hl
      obtain ⟨payload, hp, hb⟩ := (bind_eq_ok _ _ _).mp hb
      obtain ⟨hi, -, hb⟩ := (bind_eq_ok _ _ _).mp hb
      obtain ⟨lo, -, hb⟩ := (bind_eq_ok _ _ _).mp hb
      simp only [Except.ok.injEq] at hb
      subst hb
      have := ((readCells_eq_ok _ _ _ _ _).mp hp).1
      simp only [Config.maxCmdPayload] at hl
      exact ⟨by simp; omega, rfl, rfl⟩
  unfold readRequest at h
  obtain ⟨mode, -, h⟩ := (bind_eq_ok _ _ _).mp h
  split at h
  · obtain ⟨a, -, h⟩ := (bind_eq_ok _ _ _).mp h
    obtain ⟨b, -, h⟩ := (bind_eq_ok _ _ _).mp h
    obtain ⟨len, -, h⟩ := (bind_eq_ok _ _ _).mp h
    obtain ⟨hlen, hext, hid⟩ := hbody _ _ _ _ h
    refine ⟨hlen, fun _ => ?_⟩
    rw [hid]
    simp only [stdIdent, BitVec.toNat_setWidth]
    omega
  · split at h
    · obtain ⟨a, -, h⟩ := (bind_eq_ok _ _ _).mp h
      obtain ⟨b, -, h⟩ := (bind_eq_ok _ _ _).mp h
      obtain ⟨d, -, h⟩ := (bind_eq_ok _ _ _).mp h
      obtain ⟨e, -, h⟩ := (bind_eq_ok _ _ _).mp h
      obtain ⟨len, -, h⟩ := (bind_eq_ok _ _ _).mp h
      obtain ⟨hlen, hext, hid⟩ := hbody _ _ _ _ h
      exact ⟨hlen, fun hf => by simp [hext] at hf⟩
    · simp at h

/-- The length of a held frame, from its mode and length bytes (30_encoding R61, R62). -/
theorem frameTotal_of_bytes (cells : Cells) (b0 b3 b5 : Byte) (h0 : byteAt cells 0 = some b0) (h3 : byteAt cells 3 = some b3)
    (h5 : byteAt cells 5 = some b5) :
    frameTotal cells =
      if badRequest b0 b3 b5 then none else some (if b0 = 0x00#8 then 6 + b3.toNat else 8 + b5.toNat) := by
  simp only [frameTotal, h0, h3, h5, badRequest, Config.maxCmdPayload]
  by_cases hz : b0 = 0x00#8
  · by_cases hl : 7 < b3.toNat
    · simp [hz, hl, show ¬ b3.toNat ≤ 7 by omega]
    · simp [hz, hl, show b3.toNat ≤ 7 by omega]
  · by_cases ho : b0 = 0x01#8
    · by_cases hl : 7 < b5.toNat
      · simp [ho, hl, show ¬ b5.toNat ≤ 7 by omega]
      · simp [ho, hl, show b5.toNat ≤ 7 by omega]
    · simp [hz, ho]

/-- The length of a frame depends only on the bytes at positions 0, 3 and 5. -/
theorem frameTotal_congr (c d : Cells) (h0 : byteAt c 0 = byteAt d 0) (h3 : byteAt c 3 = byteAt d 3)
    (h5 : byteAt c 5 = byteAt d 5) : frameTotal c = frameTotal d := by
  simp only [frameTotal, h0, h3, h5]

/-- A byte stored past the sixth leaves the frame's length as it was (40_serial_assembler R84). -/
theorem frameTotal_set (cells : Cells) (n : Nat) (b : Byte) (hn : 6 ≤ n) :
    frameTotal (cells.set n (some b)) = frameTotal cells :=
  frameTotal_congr _ _ (byteAt_set_ne _ _ _ _ (by omega)) (byteAt_set_ne _ _ _ _ (by omega))
    (byteAt_set_ne _ _ _ _ (by omega))

theorem frameTotal_bounds (cells : Cells) (total : Nat) (h : frameTotal cells = some total) : 6 ≤ total ∧ total ≤ 15 := by
  have key : ∀ (base len n : Nat), base = 6 ∨ base = 8 → (if len ≤ 7 then some (base + len) else none) = some n →
      6 ≤ n ∧ n ≤ 15 := by
    intro base len n hb hn
    by_cases hl : len ≤ 7
    · simp only [hl, if_true, Option.some.injEq] at hn; omega
    · simp [hl] at hn
  unfold frameTotal at h
  simp only [Config.maxCmdPayload] at h
  cases h0 : byteAt cells 0 with
  | none => simp [h0] at h
  | some mode =>
    by_cases hz : mode = 0x00#8
    · cases h3 : byteAt cells 3 with
      | none => simp [h0, hz, h3] at h
      | some len =>
        simp only [h0, hz, h3, if_true] at h
        exact key 6 _ _ (.inl rfl) h
    · by_cases ho : mode = 0x01#8
      · cases h5 : byteAt cells 5 with
        | none => simp [h0, ho, h5] at h
        | some len =>
          simp only [h0, ho, h5, if_true, show ¬ (0x01#8 = 0x00#8) by decide, if_false] at h
          exact key 8 _ _ (.inr rfl) h
      · simp [h0, hz, ho] at h

/-- A complete frame whose bytes are held can be read (41_command_dispatch R91). -/
theorem readRequest_of_held (cells : Cells) (total : Nat) (ht : frameTotal cells = some total)
    (h : ∀ k, k < total → (byteAt cells k).isSome = true) : ∃ r, readRequest cells = .ok r := by
  have hb := frameTotal_bounds cells total ht
  have get : ∀ k, k < total → ∃ b, byteAt cells k = some b := fun k hk => Option.isSome_iff_exists.mp (h k hk)
  obtain ⟨b0, h0⟩ := get 0 (by omega)
  obtain ⟨b1, h1⟩ := get 1 (by omega)
  obtain ⟨b2, h2⟩ := get 2 (by omega)
  obtain ⟨b3, h3⟩ := get 3 (by omega)
  obtain ⟨b4, h4⟩ := get 4 (by omega)
  obtain ⟨b5, h5⟩ := get 5 (by omega)
  rw [frameTotal_of_bytes cells b0 b3 b5 h0 h3 h5] at ht
  simp only [badRequest, Config.maxCmdPayload] at ht
  by_cases hz : b0 = 0x00#8
  · by_cases hl : 7 < b3.toNat
    · simp [hz, hl] at ht
    · simp [hz, hl] at ht
      obtain ⟨p, hi, lo, hr, -⟩ := readBody_of_held false (stdIdent (be16 b1 b2)) b3 4 cells (by omega)
        (fun k hk => h k (by omega))
      exact ⟨_, by simp [readRequest, readCell_of_byteAt h0, hz, readCell_of_byteAt h1, readCell_of_byteAt h2,
        readCell_of_byteAt h3, hr]; rfl⟩
  · by_cases ho : b0 = 0x01#8
    · by_cases hl : 7 < b5.toNat
      · simp [ho, hl] at ht
      · simp [ho, hl] at ht
        obtain ⟨p, hi, lo, hr, -⟩ := readBody_of_held true (extIdent (be32 b1 b2 b3 b4)) b5 6 cells (by omega)
          (fun k hk => h k (by omega))
        exact ⟨_, by simp [readRequest, readCell_of_byteAt h0, ho, readCell_of_byteAt h1, readCell_of_byteAt h2,
          readCell_of_byteAt h3, readCell_of_byteAt h4, readCell_of_byteAt h5, hr]; rfl⟩
    · simp [hz, ho] at ht

end Sys2Proof.Machine
end

