-- ==== Sys2Proof/Laws/PerInstr.lean ====
section
/-! SUPPORT. Statements about every instruction as syntax, one lemma per constructor. -/

namespace Sys2Proof.Laws.EncodedLength

/-- The length in bytes the spec gives each encoding: the record lengths of 30_encoding R74, the frame lengths of R56, R57, R64
and R65, the six bytes of R62, the four words of R68; an internal function has no encoding. -/
def specLength : Instr → Nat
  | .feed _ => 2
  | .dispatch => 1
  | .tick => 1
  | .stop => 1
  | .busRx _ _ _ _ => 17
  | .reset => 1
  | .ms => 1
  | .req0 _ payload _ => 6 + payload.length
  | .req1 _ payload _ => 8 + payload.length
  | .reqInvalid _ _ _ _ _ _ => 6
  | .ntf0 _ app _ => 5 + app.length
  | .ntf1 _ app _ => 7 + app.length
  | .wireStd _ _ _ _ => 16
  | .wireExt _ _ _ _ => 16
  | .encode _ _ _ => 0
  | .decode _ _ _ _ => 0
  | .check _ _ => 0

/-- A well-formed instruction's encoding has the spec's length and fits the longest instruction. -/
def Statement (i : Instr) : Prop :=
  i.wellFormed = true → (Sys2Proof.encode i).length = specLength i ∧ specLength i ≤ longestInstr

theorem feed (b : Byte) : Statement (.feed b) := fun _ => ⟨rfl, by simp [specLength, longestInstr]⟩

theorem dispatch : Statement .dispatch := fun _ => ⟨rfl, by decide⟩

theorem tick : Statement .tick := fun _ => ⟨rfl, by decide⟩

theorem stop : Statement .stop := fun _ => ⟨rfl, by decide⟩

theorem busRx (idw dlcw dlw dhw : Word) : Statement (.busRx idw dlcw dlw dhw) := fun _ => ⟨rfl, by simp [specLength, longestInstr]⟩

theorem reset : Statement .reset := fun _ => ⟨rfl, by decide⟩

theorem ms : Statement .ms := fun _ => ⟨rfl, by decide⟩

theorem req0 (idc : Half) (payload : List Byte) (interval : Half) : Statement (.req0 idc payload interval) := by
  intro h
  simp only [Instr.wellFormed, Config.maxCmdPayload, decide_eq_true_eq] at h
  simp only [Sys2Proof.encode, beBytes16, specLength, longestInstr, List.length_cons, List.length_append, List.length_nil]
  omega

theorem req1 (idc : Word) (payload : List Byte) (interval : Half) : Statement (.req1 idc payload interval) := by
  intro h
  simp only [Instr.wellFormed, Config.maxCmdPayload, decide_eq_true_eq] at h
  simp only [Sys2Proof.encode, beBytes16, beBytes32, specLength, longestInstr, List.length_cons, List.length_append, List.length_nil]
  omega

theorem reqInvalid (b0 b1 b2 b3 b4 b5 : Byte) : Statement (.reqInvalid b0 b1 b2 b3 b4 b5) :=
  fun _ => ⟨rfl, by simp [specLength, longestInstr]⟩

theorem ntf0 (id : StdIdent) (app : List Byte) (flag : Bool) : Statement (.ntf0 id app flag) := by
  intro h
  simp only [Instr.wellFormed, Config.maxBusPayload, decide_eq_true_eq] at h
  simp only [Sys2Proof.encode, ntfBytes, beBytes16, specLength, longestInstr, List.length_cons, List.length_append, List.length_nil,
    Bool.false_eq_true, if_false]
  omega

theorem ntf1 (id : Ident) (app : List Byte) (flag : Bool) : Statement (.ntf1 id app flag) := by
  intro h
  simp only [Instr.wellFormed, Config.maxBusPayload, decide_eq_true_eq] at h
  simp only [Sys2Proof.encode, ntfBytes, beBytes32, specLength, longestInstr, List.length_cons, List.length_append, List.length_nil,
    if_true]
  omega

theorem wireStd (idw dlcw dlw dhw : Word) : Statement (.wireStd idw dlcw dlw dhw) :=
  fun _ => ⟨rfl, by simp [specLength, longestInstr]⟩

theorem wireExt (idw dlcw dlw dhw : Word) : Statement (.wireExt idw dlcw dlw dhw) :=
  fun _ => ⟨rfl, by simp [specLength, longestInstr]⟩

theorem encode (ext : Bool) (id : Ident) (data : List Byte) : Statement (.encode ext id data) :=
  fun _ => ⟨rfl, by simp [specLength]⟩

theorem decode (idw dlcw dlw dhw : Word) : Statement (.decode idw dlcw dlw dhw) := fun _ => ⟨rfl, by simp [specLength]⟩

theorem check (id : Ident) (c : Byte) : Statement (.check id c) := fun _ => ⟨rfl, by simp [specLength]⟩

end Sys2Proof.Laws.EncodedLength
end

