-- ==== Sys2Proof/Laws/Scheduler.lean ====
section
/-! SUPPORT. What TICK, STOP, MS and DISPATCH can do, said once each. -/

namespace Sys2Proof.Machine

@[simp] theorem tick_idle (s : State) (h : s.repEnabled = false) : tick s = .ok s := by simp [tick, h]

/-- The state after a tick that sent the frame (42_repeat_scheduler R102). -/
def afterTick (ext : Bool) (id : Ident) (data : List Byte) (cells : Cells) (s : State) : State :=
  sendBusFrame (encodeFrame s.cfg.idWordLayout ext id data) { s with repData := cells, txCounter := s.txCounter + 1 }

/-- Everything a tick that completes can do (42_repeat_scheduler R102, R103). -/
theorem tick_cases (s t : State) (h : tick s = .ok t) :
    (s.repEnabled = false ∧ t = s) ∨
    (s.repEnabled = true ∧ ∃ ext id k data, s.repExt = some ext ∧ s.repId = some id ∧ s.repLen = some (k + 1) ∧
      k < s.repData.length ∧ readCells .repData (s.repData.set k (some s.txCounter)) 0 (k + 1) = .ok data ∧
      t = afterTick ext id data (s.repData.set k (some s.txCounter)) s) := by
  unfold tick at h
  split at h
  · rename_i hen
    right
    obtain ⟨len, hlen, h1⟩ := (bind_eq_ok _ _ _).mp h
    obtain ⟨k, hk, h2⟩ := (bind_eq_ok _ _ _).mp h1
    obtain ⟨cells, hcells, h3⟩ := (bind_eq_ok _ _ _).mp h2
    obtain ⟨data, hdata, h4⟩ := (bind_eq_ok _ _ _).mp h3
    obtain ⟨ext, hext, h5⟩ := (bind_eq_ok _ _ _).mp h4
    obtain ⟨id, hid, h6⟩ := (bind_eq_ok _ _ _).mp h5
    cases len with
    | zero => simp [trailingIndex] at hk
    | succ k' =>
      simp only [trailingIndex, Except.ok.injEq] at hk
      subst hk
      obtain ⟨hlt, rfl⟩ := (writeCell_eq_ok _ _ _ _ _).mp hcells
      injection h6 with h7
      exact ⟨hen, ext, id, k', data, (readValue_eq_ok _ _ _).mp hext, (readValue_eq_ok _ _ _).mp hid,
        (readValue_eq_ok _ _ _).mp hlen, hlt, hdata, h7.symm⟩
  · simp only [Except.ok.injEq] at h
    exact .inl ⟨by simpa using ‹¬ s.repEnabled = true›, h.symm⟩

/-- One tick of an armed frame whose bytes are held (42_repeat_scheduler R102). -/
theorem tick_armed (s : State) (ext : Bool) (id : Ident) (k : Nat) (data : List Byte) (hen : s.repEnabled = true)
    (hext : s.repExt = some ext) (hid : s.repId = some id) (hlen : s.repLen = some (k + 1)) (hk : k < s.repData.length)
    (hdata : readCells .repData (s.repData.set k (some s.txCounter)) 0 (k + 1) = .ok data) :
    tick s = .ok (afterTick ext id data (s.repData.set k (some s.txCounter)) s) := by
  simp [tick, hen, hlen, trailingIndex, writeCell_of_lt _ hk, hdata, hext, hid, afterTick]

/-- Under `EXTERNAL` the `tick` event is one tick (42_repeat_scheduler R109). -/
@[simp] theorem execTick_external (s : State) (h : s.cfg.timerModel = .external) : execTick s = finish (tick s) := by
  simp [execTick, h]

/-- Under `INTERNAL_MS` the `tick` input is not used (42_repeat_scheduler R110). -/
@[simp] theorem execTick_internalMs (s : State) (h : s.cfg.timerModel = .internalMs) : execTick s = .next s := by
  simp [execTick, h]

/-- Everything a TICK event that completes can do (42_repeat_scheduler R102, R110). -/
theorem execTick_cases (s t : State) (h : execTick s = .next t) :
    (s.cfg.timerModel = .internalMs ∧ t = s) ∨ (s.cfg.timerModel = .external ∧ tick s = .ok t) := by
  cases hm : s.cfg.timerModel with
  | external => exact .inr ⟨rfl, (finish_next_iff _ _).mp (execTick_external s hm ▸ h)⟩
  | internalMs =>
    rw [execTick_internalMs s hm] at h
    injection h with h
    exact .inl ⟨rfl, h.symm⟩

/-- MS while the timer is stopped (42_repeat_scheduler R111). -/
@[simp] theorem millisecond_stopped (s : State) (h : s.tmrRunning = false) : millisecond s = .ok s := by simp [millisecond, h]

/-- MS before the last millisecond of a period (42_repeat_scheduler R111). -/
theorem millisecond_counts (s : State) (r : Half) (hrun : s.tmrRunning = true) (hr : s.tmrRemaining = some r)
    (h : r - 1 ≠ 0) : millisecond s = .ok { s with tmrRemaining := some (r - 1) } := by
  simp only [millisecond, if_pos hrun, hr, readValue_some, bind_ok, if_neg h]

/-- MS at the last millisecond of a period: reload, then one tick (42_repeat_scheduler R111). -/
theorem millisecond_expires (s : State) (r p : Half) (hrun : s.tmrRunning = true) (hr : s.tmrRemaining = some r)
    (hp : s.tmrPeriod = some p) (h : r - 1 = 0) : millisecond s = tick { s with tmrRemaining := some p } := by
  simp only [millisecond, if_pos hrun, hr, hp, readValue_some, bind_ok, if_pos h]

/-- Everything an MS that completes can do (42_repeat_scheduler R111). -/
theorem millisecond_cases (s t : State) (h : millisecond s = .ok t) :
    (s.tmrRunning = false ∧ t = s) ∨
    (s.tmrRunning = true ∧ ∃ r, s.tmrRemaining = some r ∧ r - 1 ≠ 0 ∧ t = { s with tmrRemaining := some (r - 1) }) ∨
    (s.tmrRunning = true ∧ ∃ r p, s.tmrRemaining = some r ∧ r - 1 = 0 ∧ s.tmrPeriod = some p ∧
      tick { s with tmrRemaining := some p } = .ok t) := by
  unfold millisecond at h
  split at h
  · rename_i hrun
    obtain ⟨r, hr, h⟩ := (bind_eq_ok _ _ _).mp h
    have hr' := (readValue_eq_ok _ _ _).mp hr
    split at h
    · rename_i hz
      obtain ⟨p, hp, h⟩ := (bind_eq_ok _ _ _).mp h
      exact .inr (.inr ⟨hrun, r, p, hr', hz, (readValue_eq_ok _ _ _).mp hp, h⟩)
    · rename_i hz
      simp only [Except.ok.injEq] at h
      exact .inr (.inl ⟨hrun, r, hr', hz, h.symm⟩)
  · simp only [Except.ok.injEq] at h
    exact .inl ⟨by simpa using ‹¬ s.tmrRunning = true›, h.symm⟩

/-- DISPATCH completes exactly when a frame waits and its fields can be read (41_command_dispatch R91). -/
theorem dispatch_eq_ok (s t : State) :
    dispatch s = .ok t ↔ s.ready = true ∧ ∃ r, readRequest s.buf = .ok r ∧ t = runRequest r s := by
  unfold dispatch
  cases hr : s.ready with
  | false => simp
  | true =>
    simp only [if_true, bind_eq_ok, Except.ok.injEq, true_and]
    constructor <;> rintro ⟨r, h1, h2⟩ <;> exact ⟨r, h1, h2.symm⟩

/-- The two ways a DISPATCH ends (41_command_dispatch R94, R95). -/
theorem runRequest_cases (r : Request) (s : State) :
    (r.interval = 0 ∧ runRequest r s =
      singleShot r (r.payload ++ [s.txCounter]) (resetBuffer { s with txCounter := s.txCounter + 1 })) ∨
    (r.interval ≠ 0 ∧ runRequest r s =
      armRepeat r (r.payload ++ [s.txCounter]) (resetBuffer { s with txCounter := s.txCounter + 1 })) := by
  by_cases h : r.interval = 0
  · exact .inl ⟨h, if_pos h⟩
  · exact .inr ⟨h, if_neg h⟩

/-- What DISPATCH writes whichever way it ends (41_command_dispatch R91, R93, R97). -/
theorem runRequest_fields (r : Request) (s : State) :
    (runRequest r s).txCounter = s.txCounter + 1 ∧ (runRequest r s).count = 0 ∧ (runRequest r s).ready = false ∧
    (runRequest r s).buf = s.buf ∧ (runRequest r s).trkValid = s.trkValid ∧ (runRequest r s).trkId = s.trkId ∧
    (runRequest r s).trkCounter = s.trkCounter ∧ (runRequest r s).attackFlag = s.attackFlag ∧
    (runRequest r s).cfg = s.cfg ∧ (runRequest r s).input = s.input ∧ (runRequest r s).inputFmt = s.inputFmt ∧
    (runRequest r s).results = s.results := by
  obtain ⟨-, h⟩ | ⟨-, h⟩ := runRequest_cases r s <;> rw [h] <;> simp [singleShot, armRepeat]

end Sys2Proof.Machine
end

