-- ==== Sys2Proof/Laws/Step.lean ====
section
/-! SUPPORT. Everything a step can do, said once. -/

namespace Sys2Proof.Machine

/-- The next operation of an admitted block with events to come is the instruction at their front, or a refusal of the whole
stream (30_encoding R74). -/
theorem fetch_events (s : State) (hc : s.cfg.Admitted) (hi : s.input ≠ []) :
    (validStream s.inputFmt s.input = true ∧ ∃ i rest, decode s.inputFmt s.input = some (i, rest) ∧
      fetch s = .run i { s with input := rest }) ∨ fetch s = .stop .badStream := by
  have hc' : ¬ s.cfg.ceil < Config.minCeil := by simpa [Config.Admitted] using hc
  obtain ⟨b, bs, hb⟩ := List.exists_cons_of_ne_nil hi
  simp only [fetch, hc', if_false, hb]
  by_cases hv : validStream s.inputFmt (b :: bs) = true
  · cases hd : decode s.inputFmt (b :: bs) with
    | none => right; simp [hv]
    | some p => left; exact ⟨hv, p.1, p.2, rfl, by simp [hv]⟩
  · right; simp [hv]

/-- Everything a step can be: a refusal by the fetch, an idle step, the DISPATCH the block takes by itself, or the instruction
that the decoder reads from the front of the events to come. -/
theorem step_cases (s : State) :
    (step s = .refused .ceilTooSmall ∨ step s = .refused .badStream) ∨
    (s.input = [] ∧ s.ready = false ∧ step s = .next s) ∨
    (s.input = [] ∧ s.ready = true ∧ step s = exec .dispatch s) ∨
    ∃ i rest, decode s.inputFmt s.input = some (i, rest) ∧ step s = exec i { s with input := rest } := by
  by_cases hc : s.cfg.ceil < Config.minCeil
  · left; left; simp [step, fetch, hc]
  · by_cases hi : s.input = []
    · right
      cases hr : s.ready with
      | false => left; exact ⟨hi, rfl, by simp [step, fetch, hc, hi, hr]⟩
      | true => right; left; exact ⟨hi, rfl, by simp [step, fetch, hc, hi, hr]⟩
    · rcases fetch_events s (by simpa [Config.Admitted] using hc) hi with ⟨-, i, rest, hd, hf⟩ | hf
      · right; right; right; exact ⟨i, rest, hd, by simp [step, hf]⟩
      · left; right; simp [step, hf]

end Sys2Proof.Machine
end

