-- ==== Sys2Proof/Tests/Slice0.lean ====
section
/-! SUPPORT. The model's own tests, with results from spec/95_test_vectors.md, and one witness for every hypothesis of every
obligation. -/

namespace Sys2Proof.Tests

open Sys2Proof Sys2Proof.Machine

/-! WellFormed: an ill-formed term for each check is refused. -/

theorem test_wf_req0_payload : (Instr.req0 0 (List.replicate 8 0) 0).wellFormed = false := by decide

theorem test_wf_req1_payload : (Instr.req1 0 (List.replicate 8 0) 0).wellFormed = false := by decide

theorem test_wf_reqInvalid_valid_mode0 : (Instr.reqInvalid 0 0 0 7 0 0xFF).wellFormed = false := by decide

theorem test_wf_reqInvalid_valid_mode1 : (Instr.reqInvalid 1 0 0 0xFF 0 7).wellFormed = false := by decide

theorem test_wf_ntf0_payload : (Instr.ntf0 0 (List.replicate 8 0) false).wellFormed = false := by decide

theorem test_wf_ntf1_payload : (Instr.ntf1 0 (List.replicate 8 0) true).wellFormed = false := by decide

theorem test_wf_wireStd_ide : (Instr.wireStd 0x4 0 0 0).wellFormed = false := by decide

theorem test_wf_wireExt_ide : (Instr.wireExt 0x0 0 0 0).wellFormed = false := by decide

/-! Decoding: a word written out from the spec's encoding for every constructor that has one. -/

/-- 30_encoding R74, and the two records V1 ends with. -/
theorem test_decode_feed : decode .evt [0x01, 0xAA, 0x02] = some (.feed 0xAA, [0x02]) := by decide

theorem test_decode_dispatch : decode .evt [0x02] = some (.dispatch, []) := by decide

theorem test_decode_tick : decode .evt [0x03] = some (.tick, []) := by decide

theorem test_decode_stop : decode .evt [0x04] = some (.stop, []) := by decide

/-- The words of V58, each least significant byte first (R74). -/
theorem test_decode_busRx :
    decode .evt [0x05, 0x00, 0x00, 0x00, 0x20, 0x03, 0x00, 0x00, 0x00, 0x05, 0xBB, 0x00, 0x00, 0x00, 0x00, 0x00, 0x80] =
      some (.busRx 0x20000000 0x00000003 0x0000BB05 0x80000000, []) := by decide

theorem test_decode_reset : decode .evt [0x06] = some (.reset, []) := by decide

theorem test_decode_ms : decode .evt [0x07] = some (.ms, []) := by decide

/-- R56 with the bytes of V10. -/
theorem test_decode_req0 : decode .req [0x00, 0x00, 0x7F, 0x00, 0x12, 0x34] = some (.req0 0x007F [] 0x1234, []) := by decide

/-- R57 with the bytes of V15: byte 3 is an identifier byte. -/
theorem test_decode_req1 :
    decode .req [0x01, 0x00, 0x00, 0xFF, 0x00, 0x01, 0xAA, 0x00, 0x00] = some (.req1 0x0000FF00 [0xAA] 0, []) := by decide

/-- R62 with the bytes of V17. -/
theorem test_decode_reqInvalid :
    decode .req [0x01, 0x00, 0x00, 0x00, 0x00, 0x08] = some (.reqInvalid 0x01 0 0 0 0 0x08, []) := by decide

/-- R64 with the notification of V65. -/
theorem test_decode_ntf0 : decode .ntf [0x00, 0x07, 0xFF, 0x00, 0x00] = some (.ntf0 0x7FF [] false, []) := by decide

/-- R65 with the notification of V64. -/
theorem test_decode_ntf1 :
    decode .ntf [0x01, 0x1A, 0xBC, 0xDE, 0xF0, 0x01, 0x01, 0x00] = some (.ntf1 0x1ABCDEF0 [0x01] false, []) := by decide

/-- R70 with the words of V43. -/
theorem test_decode_wireStd :
    decode .wire [0x00, 0x00, 0x00, 0x20, 0x02, 0x00, 0x00, 0x00, 0x11, 0x05, 0x00, 0x00, 0x00, 0x00, 0x00, 0x00] =
      some (.wireStd 0x20000000 0x00000002 0x00000511 0x00000000, []) := by decide

/-- R70 with the words of V59. -/
theorem test_decode_wireExt :
    decode .wire [0x04, 0x08, 0x00, 0x00, 0x01, 0x00, 0x00, 0x00, 0x09, 0x00, 0x00, 0x00, 0x00, 0x00, 0x00, 0x00] =
      some (.wireExt 0x00000804 0x00000001 0x00000009 0x00000000, []) := by decide

/-- R74: 0x00 and 0x08 are no op bytes; R66: a flag byte 0x02 is none. -/
theorem test_decode_refuses :
    decode .evt [0x00] = none ∧ decode .evt [0x08] = none ∧ decode .evt [0x01] = none ∧
    decode .ntf [0x00, 0x07, 0xFF, 0x00, 0x02] = none := by decide

/-- R74: the FEED row of the table, op byte in bits 7:0 and its operand in bits 15:8. -/
theorem test_decodeTableWord : decodeTableWord 16 0xAA01 = some (.feed 0xAA) := by decide

/-! Small states. -/

/-- The bytes held, in a buffer of 30. -/
def holding (bs : List Byte) : State :=
  { State.reset with buf := bs.map some ++ List.replicate (30 - bs.length) none, count := bs.length }

/-- The same, with a complete frame waiting. -/
def waiting (bs : List Byte) : State := { holding bs with ready := true }

/-- An armed frame, with the counter's value. -/
def armedWith (ext : Bool) (id : Ident) (data : List Byte) (counter : Byte) (s : State) : State :=
  { s with
    repEnabled := true, repExt := some ext, repId := some id, repLen := some data.length
    repData := data.map some ++ List.replicate (8 - data.length) none, repPeriod := some 100, txCounter := counter }

/-- A tracked stream. -/
def tracking (id : Ident) (counter : Byte) (s : State) : State :=
  { s with trkValid := true, trkId := some id, trkCounter := some counter }

/-- The reference timer running. -/
def timed (period remaining : Half) (s : State) : State :=
  { s with
    cfg := { s.cfg with timerModel := .internalMs }, tmrRunning := true, tmrPeriod := some period
    tmrRemaining := some remaining, repPeriod := some period }

/-- `FEED_WHILE_READY = APPEND`. -/
def appending (s : State) : State := { s with cfg := { s.cfg with feedWhileReady := .append } }

/-- What a test reads off the next state. -/
def after {α : Type} (i : Instr) (s : State) (f : State → α) : Option α := (nextState (exec i s)).map f

/-! One or two steps of every instruction. -/

/-- V1: the eighth byte completes the frame. -/
theorem test_feed_completes :
    after (.feed 0x00) (holding [0x00, 0x01, 0x23, 0x02, 0xAA, 0xBB, 0x00]) (fun t => (t.count, t.ready, t.feedStatuses)) =
      some (8, true, [.complete]) := by decide

/-- V12: the sixth byte of a frame with mode 0xFF. -/
theorem test_feed_invalid :
    after (.feed 0x00) (holding [0xFF, 0x00, 0x00, 0x00, 0x00]) (fun t => (t.count, t.ready, t.feedStatuses)) =
      some (0, false, [.invalid]) := by decide

/-- V1: DISPATCH of the single shot. -/
theorem test_dispatch_single :
    after .dispatch (waiting [0x00, 0x01, 0x23, 0x02, 0xAA, 0xBB, 0x00, 0x00]) (fun t => (t.txCounter, t.count, t.ready, t.out)) =
      some (1, 0, false,
        [.timerCtl .stop, .busTx ⟨0x24600000, 0x00000003, 0x0000BBAA, 0x00000000⟩ .ok]) := by decide

/-- V27: an extended repeat of 65535 ms is stored and sends nothing. -/
theorem test_dispatch_repeat :
    after .dispatch (waiting [0x01, 0x18, 0xDA, 0xF1, 0x10, 0x03, 0x02, 0x01, 0x0D, 0xFF, 0xFF])
        (fun t => (t.repId, t.repLen, t.repData.take 4, t.out)) =
      some (some 0x18DAF110, some 4, [some 0x02, some 0x01, some 0x0D, some 0x00], [.timerCtl (.arm 65535)]) := by decide

/-- V32: TICK rewrites the trailing byte. -/
theorem test_tick :
    after .tick (armedWith false 0x100 [0x11, 0x05] 6 State.reset) (fun t => (t.txCounter, t.repData.take 2, t.busTxs)) =
      some (7, [some 0x11, some 0x06], [(⟨0x20000000, 0x00000002, 0x00000611, 0x00000000⟩, .ok)]) := by decide

/-- V34: the sequence byte of an 8-byte frame is the top byte of DHW. -/
theorem test_tick_full :
    after .tick (armedWith true 0x1ABCDEF0 [1, 2, 3, 4, 5, 6, 7, 0xFE] 0xFF State.reset) (fun t => (t.txCounter, t.busTxs)) =
      some (0, [(⟨0xD5E6F784, 0x00000008, 0x04030201, 0xFF070605⟩, .ok)]) := by decide

/-- R110: under `INTERNAL_MS` the `tick` input is not used. -/
theorem test_tick_unused :
    after .tick (timed 3 2 (armedWith false 0x100 [0x11, 0x05] 6 State.reset))
        (fun t => (t.txCounter, t.repData.take 2, t.tmrRemaining, t.out)) =
      some (6, [some 0x11, some 0x05], some 2, []) := by decide

/-- V35: STOP while Armed. -/
theorem test_stop :
    after .stop (armedWith false 0x100 [0x11, 0x00] 1 State.reset) (fun t => (t.repEnabled, t.txCounter, t.out)) =
      some (false, 1, [.timerCtl .stop]) := by decide

/-- V58, the example of R131. -/
theorem test_busRx :
    after (.busRx 0x20000000 0x00000003 0x0000BB05 0x00000000) State.reset (fun t => (t.trkId, t.trkCounter, t.hostBytes)) =
      some (some 0x100, some 0x00, [0x00, 0x01, 0x00, 0x02, 0x05, 0xBB, 0x00]) := by decide

/-- V62: a data length code of 12 is 8. -/
theorem test_busRx_clamp :
    after (.busRx 0x20000000 0x0000000C 0x44332211 0x88776655) State.reset (fun t => (t.trkCounter, t.hostBytes)) =
      some (some 0x88, [0x00, 0x01, 0x00, 0x07, 0x11, 0x22, 0x33, 0x44, 0x55, 0x66, 0x77, 0x00]) := by decide

/-- V66: RESET in the middle of activity emits nothing. -/
theorem test_reset :
    after .reset (tracking 0x100 5 (armedWith false 0x100 [0x11, 0x44] 0x45 (holding [0x00, 0x01])))
        (fun t => (t.count, t.txCounter, t.repEnabled, t.trkValid, t.out)) =
      some (0, 0, false, false, []) := by decide

/-- V37: the third MS of a period of 3 ticks and reloads. -/
theorem test_ms_ticks :
    after .ms (timed 3 1 (armedWith false 0x100 [0x11, 0x00] 1 State.reset)) (fun t => (t.tmrRemaining, t.txCounter, t.busTxs)) =
      some (some 3, 2, [(⟨0x20000000, 0x00000002, 0x00000111, 0x00000000⟩, .ok)]) := by decide

/-- V37: the MS after a reload only counts. -/
theorem test_ms_counts :
    after .ms (timed 3 3 (armedWith false 0x100 [0x11, 0x02] 3 State.reset)) (fun t => (t.tmrRemaining, t.txCounter, t.busTxs)) =
      some (some 2, 3, []) := by decide

/-- V1 as one request row. -/
theorem test_req0 :
    after (.req0 0x0123 [0xAA, 0xBB] 0) State.reset (fun t => (t.count, t.ready, t.buf.take 8, t.out)) =
      some (8, true, [0x00, 0x01, 0x23, 0x02, 0xAA, 0xBB, 0x00, 0x00].map some, statuses 7 .complete) := by decide

/-- V16: the longest frame. -/
theorem test_req1 :
    after (.req1 0x1ABCDEF0 [1, 2, 3, 4, 5, 6, 7] 0) State.reset (fun t => (t.count, t.ready, t.out)) =
      some (15, true, statuses 14 .complete) := by decide

/-- V3: the frame of mode 2. -/
theorem test_reqInvalid :
    after (.reqInvalid 0x02 0 0 0 0 0) State.reset (fun t => (t.count, t.ready, t.out)) =
      some (0, false, statuses 5 .invalid) := by decide

/-- The notification of V63's second frame. -/
theorem test_ntf0 :
    after (.ntf0 0x100 [0xAA] true) State.reset State.hostBytes = some [0x00, 0x01, 0x00, 0x01, 0xAA, 0x01] := by decide

/-- The notification of V64. -/
theorem test_ntf1 :
    after (.ntf1 0x1ABCDEF0 [0x01] false) State.reset State.hostBytes =
      some [0x01, 0x1A, 0xBC, 0xDE, 0xF0, 0x01, 0x01, 0x00] := by decide

/-- V65: STD 0x7FF with the one byte 0x00. -/
theorem test_wireStd :
    after (.wireStd 0xFFE00000 0x00000001 0x00000000 0x00000000) State.reset State.hostBytes =
      some [0x00, 0x07, 0xFF, 0x00, 0x00] := by decide

/-- V59: the extended frame of the tracked value is flagged. -/
theorem test_wireExt :
    after (.wireExt 0x00000804 0x00000001 0x00000009 0x00000000) (tracking 0x100 9 State.reset) State.hostBytes =
      some [0x01, 0x00, 0x00, 0x01, 0x00, 0x00, 0x01] := by decide

/-- V42b: five bytes of an extended frame. -/
theorem test_encode :
    after (.encode true 0x1234567 [1, 2, 3, 4, 5]) State.reset State.results =
      some [.wire ⟨0x091A2B3C, 0x00000005, 0x04030201, 0x00000005⟩] := by decide

/-- V49b: RTR, bit 0 and stale bytes are ignored. -/
theorem test_decode :
    after (.decode 0x0000081E 0x00000001 0xFFFFFF77 0xFFFFFFFF) State.reset State.results =
      some [.frame ⟨true, 0x103, [0x77]⟩] := by decide

/-- V4: the second equal counter. -/
theorem test_check_replay :
    after (.check 0x100 5) (tracking 0x100 5 State.reset) (fun t => (t.attackFlag, t.results)) =
      some (true, [.verdict .suspectedReplay]) := by decide

/-- V7: another identifier. -/
theorem test_check_switch :
    after (.check 0x200 5) (tracking 0x100 5 State.reset) (fun t => (t.trkId, t.attackFlag, t.results)) =
      some (some 0x200, false, [.verdict .clean]) := by decide

/-- The numeric codes of 30_encoding R76. -/
theorem test_codes :
    [FeedStatus.incomplete, .complete, .invalid].map FeedStatus.code = [0, 1, 2] ∧
    [CheckResult.clean, .suspectedReplay].map CheckResult.code = [0, 1] ∧
    [BusResp.ok, .busy, .busOff].map BusResp.code = [0, 1, 2] ∧
    [TimerCmd.stop, .arm 500].map TimerCmd.code = [(0, none), (1, some 500)] := by decide

/-- The placed table word is the next step's instruction (FEED 0xAA). -/
theorem test_step_runs_placed_word :
    (nextState (step (State.reset.withFetchWord 16 0xAA01))).map (fun t => (t.count, t.buf.take 1, t.input)) =
      some (1, [some 0xAA], []) := by decide

/-! Witnesses: a concrete state and operands that meet the hypotheses of each obligation, clause by clause. -/

/-- A state with a frame waiting, an armed frame, a tracked stream and the reference timer at its full period. -/
def busy : State :=
  tracking 0x100 5 (timed 3 3 (armedWith false 0x100 [0x11, 0x06] 7 (waiting [0x00, 0x01, 0x23, 0x02, 0xAA, 0xBB, 0x00, 0x05])))

theorem busy_assembler : AssemblerInv busy where
  bufLength := by decide
  countLe := by decide
  held := by decide
  complete := fun _ => ⟨8, by decide, by decide, by decide, by decide⟩
  incomplete := fun h => absurd h (by decide)

theorem busy_scheduler : SchedulerInv busy where
  dataLength := by decide
  armed := fun _ => ⟨false, 0x100, 2, 3, rfl, rfl, rfl, rfl, by decide, by decide, by decide, by decide⟩
  stdWidth := by intro id _ h; cases h; decide

theorem busy_timer : TimerInv busy where
  external := fun h => absurd h (by decide)
  together := fun _ => rfl
  counting := fun _ => ⟨3, 3, rfl, rfl, rfl, by decide, by decide⟩

/-- The invariant holds in a state with everything going on. -/
theorem busy_inv : BlockInv busy where
  ceil := by decide
  assembler := busy_assembler
  scheduler := busy_scheduler
  guard := ⟨fun _ => ⟨0x100, 5, rfl, rfl⟩, rfl⟩
  timer := busy_timer

/-- The same under `TIMER_MODEL = EXTERNAL`, where there is no reference timer. -/
def busyExternal : State :=
  tracking 0x100 5 (armedWith false 0x100 [0x11, 0x06] 7 (waiting [0x00, 0x01, 0x23, 0x02, 0xAA, 0xBB, 0x00, 0x05]))

/-- The invariant holds there too. -/
theorem busyExternal_inv : BlockInv busyExternal where
  ceil := by decide
  assembler := ⟨by decide, by decide, by decide, fun _ => ⟨8, by decide, by decide, by decide, by decide⟩,
    fun h => absurd h (by decide)⟩
  scheduler := ⟨by decide, fun _ => ⟨false, 0x100, 2, 100, rfl, rfl, rfl, rfl, by decide, by decide, by decide, by decide⟩,
    by intro id _ h; cases h; decide⟩
  guard := ⟨fun _ => ⟨0x100, 5, rfl, rfl⟩, rfl⟩
  timer := ⟨fun _ => rfl, fun h => absurd h (by decide), fun h => absurd h (by decide)⟩

/-- The invariant holds right after reset. -/
theorem reset_inv : BlockInv State.reset where
  ceil := by decide
  assembler := ⟨by decide, by decide, by decide, fun h => absurd h (by decide),
    fun _ => ⟨by decide, fun h => absurd h (by decide)⟩⟩
  scheduler := ⟨by decide, fun h => absurd h (by decide), fun _ h => absurd h (by decide)⟩
  guard := ⟨fun h => absurd h (by decide), rfl⟩
  timer := ⟨fun _ => rfl, fun _ => rfl, fun h => absurd h (by decide)⟩

theorem witness_DecodeReadsBackEveryEncoding :
    (Instr.req1 0xFFFFFFFF [1, 2, 3, 4, 5, 6, 7] 0xFFFF).wellFormed = true ∧
    (Instr.req1 0xFFFFFFFF [1, 2, 3, 4, 5, 6, 7] 0xFFFF).format ≠ .internal := by decide

theorem witness_DecodedBytesAreTheEncoding :
    decode .req [0x00, 0xFF, 0xFF, 0x00, 0x00, 0x00, 0x99] = some (.req0 0xFFFF [] 0, [0x99]) := by decide

theorem witness_BadOpByteRefusesTheWholeStream :
    (State.reset.cfg.Admitted ∧ State.reset.inputFmt = .evt) ∧
    (∀ i ∈ [Instr.feed 0xAA, Instr.tick], i.format = .evt) ∧ (8 ≤ (0x08 : Byte).toNat ∧ 8 ≤ (0xFF : Byte).toNat) ∧
    ({ State.reset with input := [0x01, 0xAA, 0x03, 0x00, 0x04] } : State).input =
      ([Instr.feed 0xAA, Instr.tick].map encode).flatten ++ 0x00 :: [0x04] := by decide

/-- A FEED without its byte, alone and after a record, and a BUS_RX short of one operand byte. -/
theorem witness_CutOffRecordRefusesTheWholeStream :
    (State.reset.cfg.Admitted ∧ State.reset.inputFmt = .evt) ∧ (∀ i ∈ [Instr.feed 0xAA, Instr.tick], i.format = .evt) ∧
    ({ State.reset with input := [0x01] } : State).input = (([] : List Instr).map encode).flatten ++ 0x01 :: [] ∧
    ({ State.reset with input := [0x01, 0xAA, 0x03, 0x01] } : State).input =
      ([Instr.feed 0xAA, Instr.tick].map encode).flatten ++ 0x01 :: [] ∧
    (List.replicate 15 (0 : Byte)).length < 16 := by decide

theorem witness_StepRunsTheDecodedInstruction :
    State.reset.cfg.Admitted ∧ ([0x01, 0xAA, 0x03] : List Byte) ≠ [] ∧ validStream .evt [0x01, 0xAA, 0x03] = true ∧
    decode .evt [0x01, 0xAA, 0x03] = some (.feed 0xAA, [0x03]) := by decide

theorem witness_StepRunsRecordsInOrder :
    State.reset.cfg.Admitted ∧ (Instr.feed 0xAA).wellFormed = true ∧ (Instr.feed 0xAA).format = State.reset.inputFmt ∧
    (Instr.feed 0xAA).format ≠ .internal ∧
    (∀ j ∈ [Instr.tick, Instr.stop], j.wellFormed = true ∧ j.format = State.reset.inputFmt) ∧
    ({ State.reset with input := [0x01, 0xAA, 0x03, 0x04] } : State).input =
      encode (.feed 0xAA) ++ ([Instr.tick, Instr.stop].map encode).flatten := by decide

theorem witness_EmptyInputDispatchesOrIdles :
    (busy.cfg.Admitted ∧ busy.input = [] ∧ busy.ready = true) ∧
    (State.reset.cfg.Admitted ∧ State.reset.input = [] ∧ State.reset.ready = false) := by decide

theorem witness_PlacedTableWordRuns :
    State.reset.cfg.Admitted ∧ decodeTableWord 8 0x03 = some .tick ∧
    decodeTableWord 128 0x00000000000000090000000100000804 = some (.wireExt 0x804 1 9 0) := by decide

theorem witness_SmallCeilingIsRefused : (State.resetWith { ceil := 14 }).cfg.ceil < 15 := by decide

theorem witness_ResetGivesTheResetValues : busy.cfg.timerModel = .internalMs := by decide

theorem witness_ResetLeavesWhatIsNotTheBlocks : State.reset.cfg.timerModel = .external := by decide

theorem witness_InvariantHoldsAtReset : Config.Admitted { ceil := 15 } := by decide

theorem witness_FeedWhileReadyDrops : busy.ready = true ∧ busy.cfg.feedWhileReady = .drop := by decide

/-- A frame waits with every byte of the buffer but one taken. -/
def nearlyFull : State :=
  appending (waiting ([0x00, 0x01, 0x23, 0x00, 0x00, 0x00] ++ List.replicate 23 0x55))

/-- A frame waits with every byte of the buffer taken. -/
def full : State := appending (waiting ([0x00, 0x01, 0x23, 0x00, 0x00, 0x00] ++ List.replicate 24 0x55))

theorem witness_FeedWhileReadyAppends :
    nearlyFull.ready = true ∧ nearlyFull.cfg.feedWhileReady = .append ∧ nearlyFull.buf.length = nearlyFull.cfg.ceil ∧
    nearlyFull.count < nearlyFull.cfg.ceil := by decide

theorem witness_FeedAtTheCeilingResets :
    full.count = full.cfg.ceil ∧ ¬ (full.ready = true ∧ full.cfg.feedWhileReady = .drop) ∧
    (holding (List.replicate 30 0x55)).count = (holding (List.replicate 30 0x55)).cfg.ceil ∧
    (holding (List.replicate 30 0x55)).ready = false := by decide

/-- What the statement about an accumulating FEED assumes of a state, and of the three bytes it evaluates. -/
def accumulates (s : State) (b b0 b3 b5 : Byte) : Prop :=
  (s.ready = false ∧ s.buf.length = s.cfg.ceil ∧ s.count < s.cfg.ceil ∧ 6 ≤ s.count + 1) ∧
  (s.buf.set s.count (some b))[0]? = some (some b0) ∧ (s.buf.set s.count (some b))[3]? = some (some b3) ∧
  (s.buf.set s.count (some b))[5]? = some (some b5)

theorem witness_FeedWhileAccumulating_short :
    (holding [0, 0, 0, 0]).ready = false ∧ (holding [0, 0, 0, 0]).buf.length = (holding [0, 0, 0, 0]).cfg.ceil ∧
    (holding [0, 0, 0, 0]).count < (holding [0, 0, 0, 0]).cfg.ceil ∧ (holding [0, 0, 0, 0]).count + 1 < 6 := by decide

theorem witness_FeedWhileAccumulating_invalid_mode : accumulates (holding [0x02, 0, 0, 0, 0]) 0 0x02 0 0 := by
  simp only [accumulates]; decide

theorem witness_FeedWhileAccumulating_invalid_length0 : accumulates (holding [0x00, 0, 0, 8, 0]) 0 0x00 8 0 := by
  simp only [accumulates]; decide

theorem witness_FeedWhileAccumulating_invalid_length1 : accumulates (holding [0x01, 0, 0, 0xFF, 0]) 8 0x01 0xFF 8 := by
  simp only [accumulates]; decide

/-- The shortest frame: six bytes, a length of 0. -/
theorem witness_FeedWhileAccumulating_complete0 : accumulates (holding [0x00, 0, 0, 0, 0]) 0 0x00 0 0 := by
  simp only [accumulates]; decide

/-- The longest frame: the fifteenth byte, a length of 7. -/
theorem witness_FeedWhileAccumulating_complete1 :
    accumulates (holding [0x01, 0, 0, 0xFF, 0, 7, 0, 0, 0, 0, 0, 0, 0, 0]) 0 0x01 0xFF 7 ∧
    (holding [0x01, 0, 0, 0xFF, 0, 7, 0, 0, 0, 0, 0, 0, 0, 0]).count + 1 = 8 + (7 : Byte).toNat := by
  simp only [accumulates]; decide

theorem witness_FeedWhileAccumulating_incomplete :
    accumulates (holding [0x00, 0, 0, 7, 0]) 0 0x00 7 0 ∧ accumulates (holding [0x01, 0, 0, 0xFF, 0]) 0 0x01 0xFF 0 := by
  simp only [accumulates]; decide

theorem witness_FeedCompletesAndWritesOnlyTheAssembler : BlockInv busy := busy_inv

theorem witness_FeedKeepsTheWaitingFrame :
    BlockInv busy ∧ busy.ready = true ∧ frameTotal busy.buf = some 8 ∧
    ∃ t, exec (.feed 0x55) busy = .next t ∧ t.ready = true :=
  ⟨busy_inv, by decide, by decide, _, rfl, rfl⟩

theorem witness_RequestRowsComplete :
    BlockInv State.reset ∧ (Instr.req0 0x123 [0xAA] 0).format = .req ∧ (Instr.reqInvalid 2 0 0 0 0 0).format = .req :=
  ⟨reset_inv, rfl, rfl⟩

theorem witness_Req0FillsTheEmptyBuffer :
    BlockInv State.reset ∧ State.reset.count = 0 ∧ State.reset.ready = false ∧ (List.replicate 7 (0 : Byte)).length ≤ 7 :=
  ⟨reset_inv, rfl, rfl, by decide⟩

theorem witness_Req1FillsTheEmptyBuffer :
    BlockInv State.reset ∧ State.reset.count = 0 ∧ State.reset.ready = false ∧ (List.replicate 7 (0 : Byte)).length ≤ 7 :=
  ⟨reset_inv, rfl, rfl, by decide⟩

theorem witness_InvalidRequestLeavesTheBufferEmpty :
    (BlockInv State.reset ∧ State.reset.count = 0 ∧ State.reset.ready = false) ∧
    (¬ ((0x02 : Byte) = 0x00#8 ∨ (0x02 : Byte) = 0x01#8)) ∧ 7 < (8 : Byte).toNat ∧ 7 < (0xFF : Byte).toNat :=
  ⟨⟨reset_inv, rfl, rfl⟩, by decide, by decide, by decide⟩

theorem witness_DispatchIsStuckWhenNothingWaits : State.reset.ready = false := by decide

theorem witness_DispatchSendsASingleShotOnce :
    (waiting [0x00, 0xFF, 0xFF, 0x00, 0x00, 0x00]).ready = true ∧
    HoldsFrame (waiting [0x00, 0xFF, 0xFF, 0x00, 0x00, 0x00]) (req0Bytes 0xFFFF [] 0) ∧
    HoldsFrame (waiting (req1Bytes 0x1ABCDEF0 [1, 2, 3, 4, 5, 6, 7] 0)) (req1Bytes 0x1ABCDEF0 [1, 2, 3, 4, 5, 6, 7] 0) :=
  ⟨rfl, ⟨List.replicate 24 none, by decide⟩, ⟨List.replicate 15 none, by decide⟩⟩

theorem witness_DispatchArmsARepeat :
    (waiting (req0Bytes 0x100 [0x11] 1)).ready = true ∧ (1 : Half) ≠ 0 ∧
    HoldsFrame (waiting (req0Bytes 0x100 [0x11] 1)) (req0Bytes 0x100 [0x11] 1) ∧
    HoldsFrame (waiting (req1Bytes 0xFFFFFFFF [] 0xFFFF)) (req1Bytes 0xFFFFFFFF [] 0xFFFF) :=
  ⟨rfl, by decide, ⟨List.replicate 23 none, by decide⟩, ⟨List.replicate 22 none, by decide⟩⟩

theorem witness_DispatchCompletesWhenAFrameWaits : BlockInv busy ∧ busy.ready = true := ⟨busy_inv, rfl⟩

theorem witness_DispatchFaultsOnABrokenFrame :
    (waiting [0x02, 0, 0, 0, 0, 0]).ready = true ∧ HoldsFrame (waiting [0x02, 0, 0, 0, 0, 0]) [0x02, 0, 0, 0, 0, 0] ∧
    HoldsFrame (waiting [0x00, 0, 0, 8, 0, 0]) [0x00, 0, 0, 8, 0, 0] ∧
    HoldsFrame (waiting [0x01, 0, 0, 0, 0, 8]) [0x01, 0, 0, 0, 0, 8] :=
  ⟨rfl, ⟨List.replicate 24 none, by decide⟩, ⟨List.replicate 24 none, by decide⟩, ⟨List.replicate 24 none, by decide⟩⟩

/-- The hypotheses of both modes are the same; the longest payload. -/
theorem witness_SingleShotCommandSendsOneFrame :
    BlockInv State.reset ∧ State.reset.count = 0 ∧ State.reset.ready = false ∧ (List.replicate 7 (0 : Byte)).length ≤ 7 :=
  ⟨reset_inv, rfl, rfl, by decide⟩

theorem witness_TickWhileIdleDoesNothing : State.reset.repEnabled = false := by decide

/-- The shortest stored frame (one byte) and the longest (eight). -/
theorem witness_TickWhileArmedSendsOnce :
    (∀ s, s = armedWith false 0x100 [0x05] 6 State.reset →
      s.cfg.timerModel = .external ∧ s.repEnabled = true ∧ Stored s false 0x100 [] (some 0x05) (List.replicate 7 none)) ∧
    ∀ s, s = armedWith true 0x100 [1, 2, 3, 4, 5, 6, 7, 8] 6 State.reset →
      s.cfg.timerModel = .external ∧ s.repEnabled = true ∧ Stored s true 0x100 [1, 2, 3, 4, 5, 6, 7] (some 8) [] := by
  refine ⟨fun s h => ?_, fun s h => ?_⟩ <;> subst h <;> exact ⟨rfl, rfl, rfl, rfl, rfl, rfl⟩

theorem witness_ConsecutiveTicksCountUp :
    (BlockInv busyExternal ∧ busyExternal.repEnabled = true ∧ busyExternal.cfg.timerModel = .external) ∧
    BlockInv busy ∧ busy.repEnabled = true ∧ busy.cfg.timerModel = .internalMs ∧ busy.tmrRemaining = some 3 ∧
    busy.tmrPeriod = some 3 :=
  ⟨⟨busyExternal_inv, rfl, rfl⟩, busy_inv, rfl, rfl, rfl, rfl⟩

/-- The `tick` input of an armed block that keeps its own milliseconds. -/
theorem witness_TickInputIsNotUsedUnderInternalMs : busy.cfg.timerModel = .internalMs ∧ busy.repEnabled = true := ⟨rfl, rfl⟩

theorem witness_TickCompletes : BlockInv busyExternal ∧ BlockInv busy := ⟨busyExternal_inv, busy_inv⟩

theorem witness_StopDisarms : ∃ t, exec .stop busy = .next t := ⟨_, rfl⟩

theorem witness_MsIsRefusedUnderExternal : State.reset.cfg.timerModel = .external := by decide

theorem witness_MsCountsDownAndTicks :
    ({ busy with tmrRunning := false } : State).cfg.timerModel = .internalMs ∧
    (busy.tmrRunning = true ∧ busy.tmrRemaining = some 3 ∧ (3 : Half) - 1 ≠ 0) ∧
    (({ busy with tmrRemaining := some 1 } : State).tmrRemaining = some 1 ∧ busy.tmrPeriod = some 3 ∧ (1 : Half) - 1 = 0) ∧
    ({ busy with repEnabled := false } : State).repEnabled = false ∧ busy.repEnabled = true ∧
    Stored busy false 0x100 [0x11] (some 0x06) (List.replicate 6 none) := by
  simp only [Stored]; decide

theorem witness_MsCompletes : BlockInv busy ∧ busy.cfg.timerModel = .internalMs := ⟨busy_inv, rfl⟩

theorem witness_TheArmedPeriodIsKept :
    BlockInv busy ∧ busy.cfg.timerModel = .internalMs ∧ busy.tmrRunning = true ∧ busy.tmrPeriod = some 3 ∧
    busy.tmrRemaining = some 3 := ⟨busy_inv, rfl, rfl, rfl, rfl⟩

theorem witness_DecodeReadsEveryField :
    (decodeFrame .bxcan ⟨0x0000081E, 1, 0x77, 0⟩).ext = true ∧ (decodeFrame .bxcan ⟨0x20000000, 0xF, 0x77, 0⟩).ext = false := by
  decide

theorem witness_CodecRoundTrip :
    (0x7FF : Ident).toNat < 2 ^ 11 ∧ (List.replicate 8 (0 : Byte)).length ≤ 8 ∧
    Canonical ⟨0x24600000, 0x00000003, 0x0000BBAA, 0x00000000⟩ ⟨0x24600000, 0x00000003, 0x0000BBAA, 0x00000000⟩ ∧
    Canonical ⟨0xFFFFFFFC, 0x00000001, 0x00000001, 0x00000000⟩ ⟨0xFFFFFFFC, 0x00000001, 0x00000001, 0x00000000⟩ :=
  ⟨by decide, by decide, ⟨by decide, by decide, by decide⟩, ⟨by decide, by decide, by decide⟩⟩

/-- V49 and its canonical form. -/
theorem witness_IgnoredBitsDoNotMatter :
    SameUsedBits ⟨0x246FFFFA, 0x00000001, 0x000000EE, 0x00000000⟩ ⟨0x24600000, 0xFFFFFFF1, 0xFFFFFFEE, 0xFFFFFFFF⟩ :=
  ⟨by decide, by decide, by decide, by decide, by decide⟩

theorem witness_NewStreamIsClean :
    State.reset.trkValid = false ∧ ∃ last, busy.trkId = some last ∧ (0x200 : Ident) ≠ last := ⟨rfl, 0x100, rfl, by decide⟩

theorem witness_SameCounterIsASuspectedReplay :
    busy.trkValid = true ∧ busy.trkId = some 0x100 ∧ busy.trkCounter = some 5 := by decide

theorem witness_EmptyFrameIsDropped : (0xFFFFFFF0 : Word).extractLsb' 0 4 = 0 := by decide

/-- V58, and V62 with a length code above 8. -/
theorem witness_InboundFrameIsNotified :
    Tracked busy ∧
    decodeFrame busy.cfg.idWordLayout ⟨0x20000000, 0x00000001, 0x00000005, 0⟩ = ⟨false, 0x100, [] ++ [0x05]⟩ ∧
    decodeFrame busy.cfg.idWordLayout ⟨0x20000000, 0x0000000C, 0x44332211, 0x88776655⟩ =
      ⟨false, 0x100, [0x11, 0x22, 0x33, 0x44, 0x55, 0x66, 0x77] ++ [0x88]⟩ :=
  ⟨fun _ => ⟨0x100, 5, rfl, rfl⟩, by decide, by decide⟩

theorem witness_WireRowsRelayTheirFrame :
    (Instr.wireExt 0x804 0 9 0 = .wireStd 0x804 0 9 0 ∨ Instr.wireExt 0x804 0 9 0 = .wireExt 0x804 0 9 0) ∧
    (0x00000000 : Word).extractLsb' 0 4 = 0 ∧ Tracked busy ∧
    decodeFrame busy.cfg.idWordLayout ⟨0x00000804, 0x00000001, 0x00000009, 0⟩ = ⟨true, 0x100, [] ++ [0x09]⟩ :=
  ⟨.inr rfl, by decide, fun _ => ⟨0x100, 5, rfl, rfl⟩, by decide⟩

theorem witness_RepeatedFrameIsFlagged : Tracked busy ∧ (0x00000001 : Word).extractLsb' 0 4 ≠ 0 :=
  ⟨fun _ => ⟨0x100, 5, rfl, rfl⟩, by decide⟩

/-- Two states that agree on the Replay Guard and differ everywhere else. -/
theorem witness_InboundIsIndependentOfOutbound :
    busy.cfg.idWordLayout = (tracking 0x100 5 State.reset).cfg.idWordLayout ∧
    busy.trkValid = (tracking 0x100 5 State.reset).trkValid ∧ busy.trkId = (tracking 0x100 5 State.reset).trkId ∧
    busy.trkCounter = (tracking 0x100 5 State.reset).trkCounter ∧
    busy.attackFlag = (tracking 0x100 5 State.reset).attackFlag ∧
    (∃ t, exec (.busRx 0x20000000 0x00000001 0x00000005 0) busy = .next t) ∧ ∃ t, exec .dispatch busy = .next t :=
  ⟨rfl, rfl, rfl, rfl, rfl, ⟨_, rfl⟩, _, rfl⟩

/-- A TICK record in the middle of everything. -/
theorem witness_EveryStepKeepsTheInvariant :
    BlockInv { busyExternal with input := [0x03] } ∧
    ∃ t, step { busyExternal with input := [0x03] } = .next t ∧ t.txCounter = 8 :=
  have h := busyExternal_inv
  ⟨⟨h.ceil, ⟨h.assembler.bufLength, h.assembler.countLe, h.assembler.held, h.assembler.complete, h.assembler.incomplete⟩,
    ⟨h.scheduler.dataLength, h.scheduler.armed, h.scheduler.stdWidth⟩, ⟨h.guard.tracked, h.guard.flagClear⟩,
    ⟨h.timer.external, h.timer.together, h.timer.counting⟩⟩, _, rfl, rfl⟩

theorem witness_TheBlockNeverFaults : BlockInv State.reset := reset_inv

theorem witness_OnlyTransmissionsAdvanceTheCounter :
    (∃ t, exec .dispatch busy = .next t) ∧
    (busyExternal.cfg.timerModel = .external ∧ busyExternal.repEnabled = true ∧ ∃ t, exec .tick busyExternal = .next t) ∧
    (∃ t, exec .ms busy = .next t) ∧ (∃ t, exec .ms { busy with tmrRemaining := some 1 } = .next t ∧ t.txCounter = 8) ∧
    (State.reset.repEnabled = false ∧ ∃ t, exec .tick State.reset = .next t) ∧
    (busy.cfg.timerModel = .internalMs ∧ ∃ t, exec .tick busy = .next t) ∧ ∃ t, exec .stop busy = .next t :=
  ⟨⟨_, rfl⟩, ⟨rfl, rfl, _, rfl⟩, ⟨_, rfl⟩, ⟨_, rfl, rfl⟩, ⟨rfl, _, rfl⟩, ⟨rfl, _, rfl⟩, _, rfl⟩

/-- A repeat DISPATCH arms from Idle, and STOP disarms. -/
theorem witness_SchedulerTransitions :
    (∃ t, exec .dispatch (waiting (req0Bytes 0x100 [0x11] 1)) = .next t ∧
      (waiting (req0Bytes 0x100 [0x11] 1)).repEnabled = false ∧ t.repEnabled = true) ∧
    ∃ t, exec .stop busy = .next t ∧ busy.repEnabled = true ∧ t.repEnabled = false :=
  ⟨⟨_, rfl, rfl, rfl⟩, _, rfl, rfl, rfl⟩

theorem witness_EverySendTakesOneCounterValue :
    (∃ t, exec .tick busyExternal = .next t ∧ t.busTxs.length = 1) ∧
    ∃ t, exec .dispatch (waiting (req0Bytes 0x100 [] 0)) = .next t ∧ t.busTxs.length = 1 :=
  ⟨⟨_, rfl, rfl⟩, _, rfl, rfl⟩

/-- Two ticks send two frames, and six MS of a period of 3 take two increments. -/
theorem witness_NoCounterValueIsSentTwice :
    (BlockInv busyExternal ∧ (∀ i ∈ [Instr.tick, .tick], i.format ≠ .internal ∧ i ≠ .reset) ∧
      incrementsTaken [.tick, .tick] busyExternal ≤ 256 ∧
      ∃ t sent, execAll [.tick, .tick] busyExternal = .next t ∧ t.busTxs = busyExternal.busTxs ++ sent ∧ sent.length = 2) ∧
    BlockInv busy ∧ incrementsTaken (List.replicate 6 .ms) busy = 2 :=
  ⟨⟨busyExternal_inv, by decide, by decide, _, _, rfl, rfl, rfl⟩, busy_inv, by decide⟩

theorem witness_ParametersAndPastEmissionsStay : ∃ t, exec .reset busy = .next t := ⟨_, rfl⟩

end Sys2Proof.Tests
end

section
/-! The front end of a step: what the fetch answers for each input it can meet, and the obligations of 00_scope that
follow from it (O5, O9). -/

namespace Sys2Proof.Machine

/-- A step refuses what the fetch stops on. -/
theorem step_of_fetch_stop {s : State} {r : Refusal} (hf : fetch s = .stop r) : step s = .refused r := by
  rw [step, hf]

/-- A step runs what the fetch hands over. -/
theorem step_of_fetch_run {s t : State} {i : Instr} (hf : fetch s = .run i t) : step s = exec i t := by
  rw [step, hf]

/-- The ceiling is looked at first, whatever the events to come are (00_scope R7). -/
theorem fetch_of_ceil_lt {s : State} (hc : s.cfg.ceil < Config.minCeil) : fetch s = .stop .ceilTooSmall := by
  rw [fetch, if_pos hc]

/-- Of a valid stream the fetch takes the record at the front, and leaves the rest to come (30_encoding R74): the case in which
`fetch_events` cannot be a refusal. -/
theorem fetch_of_decode {s : State} {i : Instr} {rest : List Byte} (hc : s.cfg.Admitted) (hi : s.input ≠ [])
    (hv : validStream s.inputFmt s.input = true) (hd : decode s.inputFmt s.input = some (i, rest)) :
    fetch s = .run i { s with input := rest } := by
  have hceil : ¬ s.cfg.ceil < Config.minCeil := Nat.not_lt.mpr hc
  obtain ⟨b, bs, hb⟩ := List.exists_cons_of_ne_nil hi
  rw [hb] at hv hd
  simp [fetch, hceil, hb, hv, hd]

/-- Settles O5: on a valid stream the fetch hands `exec` the decoded record. -/
theorem stepRunsTheDecodedInstruction : Obligations.StepRunsTheDecodedInstruction := by
  intro s i rest hc hi hv hd
  exact step_of_fetch_run (fetch_of_decode hc hi hv hd)

/-- Settles O9: the fetch compares the ceiling with 15 before it looks at the events to come. -/
theorem smallCeilingIsRefused : Obligations.SmallCeilingIsRefused := by
  intro s hc
  exact step_of_fetch_stop (fetch_of_ceil_lt hc)

end Sys2Proof.Machine
end

section
/-! The invariant of 10_state R29, unit by unit: which elements each part of it speaks of, and the values from which it holds
again. -/

namespace Sys2Proof.Machine

/-- The assembler's part speaks of the parameters and the buffer. -/
theorem AssemblerInv.congr {s t : State} (h : AssemblerInv s)
    (e : t.cfg = s.cfg ∧ t.buf = s.buf ∧ t.count = s.count ∧ t.ready = s.ready) : AssemblerInv t := by
  obtain ⟨hcfg, hbuf, hcount, hready⟩ := e
  obtain ⟨hlen, hle, hheld, hcomplete, hincomplete⟩ := h
  constructor <;> simpa only [hcfg, hbuf, hcount, hready]

/-- The scheduler's part speaks of the stored frame. -/
theorem SchedulerInv.congr {s t : State} (h : SchedulerInv s)
    (e : t.repEnabled = s.repEnabled ∧ t.repExt = s.repExt ∧ t.repId = s.repId ∧ t.repLen = s.repLen ∧
      t.repData = s.repData ∧ t.repPeriod = s.repPeriod) : SchedulerInv t := by
  obtain ⟨hen, hext, hid, hlen, hdata, hperiod⟩ := e
  obtain ⟨hlength, harmed, hwidth⟩ := h
  constructor <;> simpa only [hen, hext, hid, hlen, hdata, hperiod]

/-- The guard's part speaks of the tracker and the attack flag. -/
theorem GuardInv.congr {s t : State} (h : GuardInv s)
    (e : t.trkValid = s.trkValid ∧ t.trkId = s.trkId ∧ t.trkCounter = s.trkCounter ∧ t.attackFlag = s.attackFlag) :
    GuardInv t := by
  obtain ⟨hvalid, hid, hcounter, hflag⟩ := e
  obtain ⟨htracked, hclear⟩ := h
  constructor <;> simpa only [hvalid, hid, hcounter, hflag]

/-- The timer's part speaks of the timer model, the timer and what it shares with the scheduler. -/
theorem TimerInv.congr {s t : State} (h : TimerInv s)
    (e : t.cfg = s.cfg ∧ t.repEnabled = s.repEnabled ∧ t.repPeriod = s.repPeriod ∧ t.tmrRunning = s.tmrRunning ∧
      t.tmrPeriod = s.tmrPeriod ∧ t.tmrRemaining = s.tmrRemaining) : TimerInv t := by
  obtain ⟨hcfg, hen, hrep, hrun, hperiod, hrem⟩ := e
  obtain ⟨hexternal, htogether, hcounting⟩ := h
  constructor <;> simpa only [hcfg, hen, hrep, hrun, hperiod, hrem]

/-- The counter, the events to come, the responses and the emissions are no part of the invariant. -/
theorem BlockInv.unseen {s : State} (h : BlockInv s) (counter : Byte) (input : List Byte) (script : List BusResp)
    (out : List Output) :
    BlockInv { s with txCounter := counter, input := input, script := script, out := out } where
  ceil := h.ceil
  assembler := h.assembler.congr ⟨rfl, rfl, rfl, rfl⟩
  scheduler := h.scheduler.congr ⟨rfl, rfl, rfl, rfl, rfl, rfl⟩
  guard := h.guard.congr ⟨rfl, rfl, rfl, rfl⟩
  timer := h.timer.congr ⟨rfl, rfl, rfl, rfl, rfl, rfl⟩

/-- An empty buffer of `CEIL` bytes, whatever they hold (40_serial_assembler R80). -/
theorem AssemblerInv.of_empty {s : State} (hlen : s.buf.length = s.cfg.ceil) (hcount : s.count = 0)
    (hready : s.ready = false) : AssemblerInv s where
  bufLength := hlen
  countLe := by omega
  held := fun k hk => by omega
  complete := fun h => by simp [hready] at h
  incomplete := fun _ => ⟨by omega, fun h => by simp [hcount, Config.minFrame] at h⟩

/-- An Idle scheduler needs no frame, only the width of a standard identifier that it may still store. -/
theorem SchedulerInv.of_idle {s : State} (hlength : s.repData.length = Config.maxBusPayload)
    (hidle : s.repEnabled = false)
    (hwidth : ∀ id, s.repExt = some false → s.repId = some id → id.toNat < 2 ^ 11) : SchedulerInv s where
  dataLength := hlength
  armed := fun h => by simp [hidle] at h
  stdWidth := hwidth

/-- A stopped timer beside an Idle scheduler, under either timer model. -/
theorem TimerInv.of_stopped {s : State} (hidle : s.repEnabled = false) (hrun : s.tmrRunning = false) : TimerInv s where
  external := fun _ => hrun
  together := fun _ => by rw [hrun, hidle]
  counting := fun h => by simp [hrun] at h

/-- The reset values of 70_reset_and_hazards R157 meet the invariant. -/
theorem BlockInv.of_resetValues {s : State} (hceil : s.cfg.Admitted) (hbuf : s.buf = List.replicate s.cfg.ceil none)
    (hcount : s.count = 0) (hready : s.ready = false) (hen : s.repEnabled = false) (hext : s.repExt = none)
    (hdata : s.repData = List.replicate Config.maxBusPayload none) (hvalid : s.trkValid = false)
    (hflag : s.attackFlag = false) (hrun : s.tmrRunning = false) : BlockInv s where
  ceil := hceil
  assembler := .of_empty (by simp [hbuf]) hcount hready
  scheduler := .of_idle (by simp [hdata]) hen (fun id h => by simp [hext] at h)
  guard := ⟨fun h => by simp [hvalid] at h, hflag⟩
  timer := .of_stopped hen hrun

/-- An operation of the assembler keeps the invariant where it keeps the assembler's part. -/
theorem BlockInv.of_onlyAssembler {s t : State} (h : BlockInv s) (hst : OnlyAssembler s t) (ha : AssemblerInv t) :
    BlockInv t := by
  obtain ⟨rs, ht⟩ := hst
  rw [ht] at ha ⊢
  exact ⟨h.ceil, ha, h.scheduler.congr ⟨rfl, rfl, rfl, rfl, rfl, rfl⟩, h.guard.congr ⟨rfl, rfl, rfl, rfl⟩,
    h.timer.congr ⟨rfl, rfl, rfl, rfl, rfl, rfl⟩⟩

/-- An operation of the inbound side keeps the invariant where it keeps the guard's part. -/
theorem BlockInv.of_onlyGuard {s t : State} (h : BlockInv s) (hst : OnlyGuard s t) (hg : GuardInv t) : BlockInv t := by
  rw [hst] at hg ⊢
  exact ⟨h.ceil, h.assembler.congr ⟨rfl, rfl, rfl, rfl⟩, h.scheduler.congr ⟨rfl, rfl, rfl, rfl, rfl, rfl⟩, hg,
    h.timer.congr ⟨rfl, rfl, rfl, rfl, rfl, rfl⟩⟩

/-- Settles O13: power-on has the reset values. -/
theorem invariantHoldsAtReset : Obligations.InvariantHoldsAtReset :=
  fun _ hc => .of_resetValues hc rfl rfl rfl rfl rfl rfl rfl rfl rfl

end Sys2Proof.Machine
end

section
/-! The assembler from a state of the invariant: every FEED completes and keeps its part of it. -/

namespace Sys2Proof.Machine

/-- What an evaluation of six or more held bytes does is decided by the length of the frame they begin (40_serial_assembler
R83, R84). -/
theorem evaluate_of_held {s : State} (hc : 6 ≤ s.count) (hheld : ∀ k, k < s.count → (byteAt s.buf k).isSome = true) :
    (frameTotal s.buf = none ∧ evaluate s = .ok (rejectFrame s)) ∨
    ∃ total, frameTotal s.buf = some total ∧ evaluate s =
      .ok (if s.count = total then report .complete { s with ready := true } else report .incomplete s) := by
  obtain ⟨b0, h0⟩ := Option.isSome_iff_exists.mp (hheld 0 (by omega))
  obtain ⟨b3, h3⟩ := Option.isSome_iff_exists.mp (hheld 3 (by omega))
  obtain ⟨b5, h5⟩ := Option.isSome_iff_exists.mp (hheld 5 (by omega))
  rw [evaluate_of_bytes s b0 b3 b5 hc h0 h3 h5, frameTotal_of_bytes s.buf b0 b3 b5 h0 h3 h5]
  by_cases hbad : badRequest b0 b3 b5 = true
  · exact .inl ⟨if_pos hbad, by rw [if_pos hbad]⟩
  · exact .inr ⟨_, if_neg hbad, by rw [if_neg hbad]⟩

/-- Emptying the buffer gives the assembler's part back. -/
theorem assemblerInv_rejectFrame {s : State} (hlen : s.buf.length = s.cfg.ceil) : AssemblerInv (rejectFrame s) :=
  .of_empty hlen rfl rfl

/-- What holds right after the assembler stored a byte, before it evaluates the bytes it has (40_serial_assembler R82). -/
structure Stores (s : State) : Prop where
  bufLength : s.buf.length = s.cfg.ceil
  countLe   : s.count ≤ s.cfg.ceil
  notReady  : s.ready = false
  held      : ∀ k, k < s.count → (byteAt s.buf k).isSome = true
  short     : 6 ≤ s.count → ∀ total, frameTotal s.buf = some total → s.count ≤ total

/-- Storing a byte while accumulating: an incomplete frame has at most all its bytes then. -/
theorem AssemblerInv.stores {s : State} (h : AssemblerInv s) (b : Byte) (hr : s.ready = false)
    (hc : s.count < s.cfg.ceil) : Stores { s with buf := s.buf.set s.count (some b), count := s.count + 1 } where
  bufLength := by simpa using h.bufLength
  countLe := hc
  notReady := hr
  held := held_set _ _ _ (by rw [h.bufLength]; exact hc) h.held
  short := by
    intro hsix total htotal
    obtain ⟨-, hincomplete⟩ := h.incomplete hr
    by_cases hfirst : 6 ≤ s.count
    · obtain ⟨total', htotal', hlt⟩ := hincomplete hfirst
      rw [frameTotal_set _ _ _ hfirst, htotal'] at htotal
      cases htotal
      exact hlt
    · have := (frameTotal_bounds _ _ htotal).1
      simp only
      omega

/-- The evaluation after a stored byte completes and gives the assembler's part back. -/
theorem Stores.evaluate {s : State} (h : Stores s) : ∃ t, evaluate s = .ok t ∧ AssemblerInv t := by
  by_cases hc : s.count < 6
  · refine ⟨_, evaluate_short s hc, h.bufLength, h.countLe, h.held, fun hr => ?_, fun _ => ⟨?_, fun hsix => ?_⟩⟩
    · simp [h.notReady] at hr
    · simp only [report_count]; omega
    · simp only [report_count, Config.minFrame] at hsix; omega
  · rcases evaluate_of_held (by omega) h.held with ⟨-, heval⟩ | ⟨total, htotal, heval⟩
    · exact ⟨_, heval, assemblerInv_rejectFrame h.bufLength⟩
    · have hle := h.short (by omega) total htotal
      have hmax := (frameTotal_bounds _ _ htotal).2
      refine ⟨_, heval, ?_⟩
      split
      · next heq =>
        refine ⟨h.bufLength, h.countLe, h.held, fun _ => ⟨total, htotal, ?_, heq.ge, fun _ => heq⟩, fun hr => ?_⟩
        · simp only [report_count, Config.minFrame]; omega
        · simp at hr
      · next hne =>
        refine ⟨h.bufLength, h.countLe, h.held, fun hr => ?_, fun _ => ⟨?_, fun _ => ⟨total, htotal, ?_⟩⟩⟩
        · simp [h.notReady] at hr
        · simp only [report_count]; omega
        · simp only [report_count]; omega

/-- A byte stored after a waiting frame (40_serial_assembler R86, APPEND) leaves the frame complete. -/
theorem AssemblerInv.append {s : State} (h : AssemblerInv s) (b : Byte) (hr : s.ready = true)
    (hw : s.cfg.feedWhileReady = .append) (hc : s.count < s.cfg.ceil) :
    AssemblerInv { s with buf := s.buf.set s.count (some b), count := s.count + 1 } where
  bufLength := by simpa using h.bufLength
  countLe := hc
  held := held_set _ _ _ (by rw [h.bufLength]; exact hc) h.held
  complete := by
    intro _
    obtain ⟨total, htotal, hsix, hle, -⟩ := h.complete hr
    exact ⟨total, by rw [frameTotal_set _ _ _ hsix, htotal], Nat.le_succ_of_le hsix, Nat.le_succ_of_le hle,
      fun hdrop => by simp [hw] at hdrop⟩
  incomplete := fun hf => by simp [hr] at hf

/-- One FEED completes and keeps the assembler's part, in every case of 40_serial_assembler R81. -/
theorem AssemblerInv.feedByte {s : State} (h : AssemblerInv s) (b : Byte) :
    ∃ t, feedByte b s = .ok t ∧ AssemblerInv t := by
  by_cases hdrop : s.ready = true ∧ s.cfg.feedWhileReady = .drop
  · exact ⟨_, feedByte_drop b s hdrop.1 hdrop.2, h.congr ⟨rfl, rfl, rfl, rfl⟩⟩
  · by_cases hfull : s.count = s.cfg.ceil
    · exact ⟨_, feedByte_ceiling b s hfull hdrop, assemblerInv_rejectFrame h.bufLength⟩
    · have hc : s.count < s.cfg.ceil := lt_of_le_of_ne h.countLe hfull
      have hb : s.count < s.buf.length := by rw [h.bufLength]; exact hc
      cases hr : s.ready with
      | true =>
        have hw : s.cfg.feedWhileReady = .append := by
          cases hw : s.cfg.feedWhileReady with
          | drop => exact absurd ⟨hr, hw⟩ hdrop
          | append => rfl
        exact ⟨_, feedByte_append b s hr hw hfull hb, (h.append b hr hw hc).congr ⟨rfl, rfl, rfl, rfl⟩⟩
      | false =>
        rw [feedByte_accumulate b s hr hfull hb]
        exact (h.stores b hr hc).evaluate

/-- Any run of FEEDs completes and keeps the assembler's part. -/
theorem AssemblerInv.feedBytes (bs : List Byte) : ∀ {s : State}, AssemblerInv s →
    ∃ t, feedBytes bs s = .ok t ∧ AssemblerInv t := by
  induction bs with
  | nil => exact fun {s} h => ⟨s, rfl, h⟩
  | cons b bs ih =>
    intro s h
    obtain ⟨u, hu, hinv⟩ := h.feedByte b
    obtain ⟨t, ht, hinv'⟩ := ih hinv
    exact ⟨t, by rw [feedBytes_cons_ok bs hu, ht], hinv'⟩

/-- Any run of FEEDs completes in a state of the invariant and keeps it. -/
theorem BlockInv.feedBytes {s : State} (h : BlockInv s) (bs : List Byte) :
    ∃ t, feedBytes bs s = .ok t ∧ BlockInv t := by
  obtain ⟨t, ht, ha⟩ := h.assembler.feedBytes bs
  exact ⟨t, ht, h.of_onlyAssembler (feedBytes_frame bs s t ht) ha⟩

/-- FEED is a run of one byte. -/
theorem feedBytes_singleton (b : Byte) (s : State) : feedBytes [b] s = feedByte b s := by
  cases h : feedByte b s <;> simp [feedBytes, h]

end Sys2Proof.Machine
end

section
/-! The dispatcher, the scheduler, the guard and RESET from a state of the invariant: what each completes with, and that it
keeps the invariant. -/

namespace Sys2Proof.Machine

/-- A send writes nothing the invariant speaks of (10_state R35). -/
theorem BlockInv.sendBusFrame {s : State} (h : BlockInv s) (w : Wire) : BlockInv (sendBusFrame w s) :=
  h.unseen s.txCounter s.input s.script.tail _

/-- Nor does a notification (45_inbound_processor R134). -/
theorem BlockInv.notifyHost {s : State} (h : BlockInv s) (ext : Bool) (id : Ident) (app : List Byte) (flag : Bool) :
    BlockInv (notifyHost ext id app flag s) :=
  h.unseen s.txCounter s.input s.script _

/-! STOP and DISPATCH. -/

/-- `timer_ctl(STOP)` leaves the timer stopped under either timer model (42_repeat_scheduler R110). -/
theorem tmrRunning_emitTimer_stop {s : State} (h : s.cfg.timerModel = .external → s.tmrRunning = false) :
    (emitTimer .stop s).tmrRunning = false := by
  cases hm : s.cfg.timerModel with
  | external => rw [emitTimer_external _ s hm]; exact h hm
  | internalMs => rw [emitTimer_stop_internal s hm]

/-- STOP keeps the invariant: the scheduler is Idle and the timer stopped after it (42_repeat_scheduler R105). -/
theorem BlockInv.stop {s : State} (h : BlockInv s) : BlockInv (stop s) where
  ceil := by simpa [Machine.stop] using h.ceil
  assembler := h.assembler.congr (by simp [Machine.stop])
  scheduler := .of_idle (by simpa [Machine.stop] using h.scheduler.dataLength) (by simp [Machine.stop])
    (by simpa [Machine.stop] using h.scheduler.stdWidth)
  guard := h.guard.congr (by simp [Machine.stop])
  timer := .of_stopped (by simp [Machine.stop]) (tmrRunning_emitTimer_stop h.timer.external)

/-- The 1 to 8 bytes that DISPATCH stores and the frame it arms keep the scheduler's part (41_command_dispatch R95). -/
theorem SchedulerInv.armRepeat {s : State} (h : SchedulerInv s) (r : Request) (data : List Byte) (hpos : 1 ≤ data.length)
    (hle : data.length ≤ Config.maxBusPayload) (hi : r.interval ≠ 0) (hwidth : r.ext = false → r.id.toNat < 2 ^ 11) :
    SchedulerInv (armRepeat r data s) where
  dataLength := by
    simpa [Machine.armRepeat, h.dataLength] using writePrefix_length s.repData data (by rw [h.dataLength]; exact hle)
  armed := fun _ => ⟨r.ext, r.id, data.length, r.interval, by simp [Machine.armRepeat], by simp [Machine.armRepeat],
    by simp [Machine.armRepeat], by simp [Machine.armRepeat], hpos, hle, hi, fun k hk => by
      simp [Machine.armRepeat, byteAt_writePrefix _ _ _ hk, hk]⟩
  stdWidth := by
    intro id hext hid
    simp only [Machine.armRepeat, emitTimer_repExt, emitTimer_repId, Option.some.injEq] at hext hid
    exact hid ▸ hwidth hext

/-- `timer_ctl(ARM)` starts the reference timer at the stored period, and there is no timer to start under `EXTERNAL`
(42_repeat_scheduler R109, R110). -/
theorem timerInv_emitTimer_arm {s : State} {p : Half} (hext : s.cfg.timerModel = .external → s.tmrRunning = false)
    (hen : s.repEnabled = true) (hperiod : s.repPeriod = some p) (hp : p ≠ 0) : TimerInv (emitTimer (.arm p) s) := by
  cases hm : s.cfg.timerModel with
  | external =>
    rw [emitTimer_external _ s hm]
    exact ⟨fun _ => hext hm, fun hi => by simp [hm] at hi, fun hrun => by simp [hext hm] at hrun⟩
  | internalMs =>
    rw [emitTimer_arm_internal p s hm]
    exact ⟨fun he => by simp [hm] at he, fun _ => hen.symm, fun _ => ⟨p, p, rfl, hperiod, rfl, hp, le_rfl⟩⟩

/-- Arming a repeat keeps the invariant. -/
theorem BlockInv.armRepeat {s : State} (h : BlockInv s) (r : Request) (data : List Byte) (hpos : 1 ≤ data.length)
    (hle : data.length ≤ Config.maxBusPayload) (hi : r.interval ≠ 0) (hwidth : r.ext = false → r.id.toNat < 2 ^ 11) :
    BlockInv (armRepeat r data s) where
  ceil := by simpa [Machine.armRepeat] using h.ceil
  assembler := h.assembler.congr (by simp [Machine.armRepeat])
  scheduler := h.scheduler.armRepeat r data hpos hle hi hwidth
  guard := h.guard.congr (by simp [Machine.armRepeat])
  timer := timerInv_emitTimer_arm h.timer.external rfl rfl hi

/-- Taking the waiting frame out of the buffer keeps the invariant (41_command_dispatch R93, R97). -/
theorem BlockInv.takeFrame {s : State} (h : BlockInv s) :
    BlockInv (resetBuffer { s with txCounter := s.txCounter + 1 }) where
  ceil := h.ceil
  assembler := .of_empty h.assembler.bufLength rfl rfl
  scheduler := h.scheduler.congr ⟨rfl, rfl, rfl, rfl, rfl, rfl⟩
  guard := h.guard.congr ⟨rfl, rfl, rfl, rfl⟩
  timer := h.timer.congr ⟨rfl, rfl, rfl, rfl, rfl, rfl⟩

/-- DISPATCH of a request that was read keeps the invariant, whatever its interval. -/
theorem BlockInv.runRequest {s : State} (h : BlockInv s) {r : Request} (hr : readRequest s.buf = .ok r) :
    BlockInv (runRequest r s) := by
  obtain ⟨hlen, hwidth⟩ := readRequest_ok _ _ hr
  obtain ⟨-, hrun⟩ | ⟨hi, hrun⟩ := runRequest_cases r s <;> rw [hrun]
  · exact h.takeFrame.stop.sendBusFrame _
  · exact h.takeFrame.armRepeat r _ (by simp) (by simpa using Nat.succ_le_succ hlen) hi hwidth

/-- While a frame waits DISPATCH completes and keeps the invariant: the frame is held whole (10_state R29, R30). -/
theorem BlockInv.dispatch {s : State} (h : BlockInv s) (hready : s.ready = true) :
    ∃ t, dispatch s = .ok t ∧ BlockInv t := by
  obtain ⟨total, htotal, -, hle, -⟩ := h.assembler.complete hready
  obtain ⟨r, hr⟩ := readRequest_of_held s.buf total htotal (fun k hk => h.assembler.held k (by omega))
  exact ⟨_, (dispatch_eq_ok s _).mpr ⟨hready, r, hr, rfl⟩, h.runRequest hr⟩

/-- Without a frame that waits DISPATCH is stuck (30_encoding R74). -/
theorem dispatch_of_not_ready {s : State} (hready : s.ready = false) : dispatch s = .error .dispatchNotEnabled := by
  simp [dispatch, hready]

/-! TICK and MS. -/

/-- Rewriting one byte of the stored frame keeps the scheduler's part. -/
theorem SchedulerInv.setByte {s : State} (h : SchedulerInv s) (k : Nat) (b : Byte) (hk : k < s.repData.length) :
    SchedulerInv { s with repData := s.repData.set k (some b) } where
  dataLength := by simpa using h.dataLength
  armed := by
    intro hen
    obtain ⟨ext, id, len, period, hext, hid, hlen, hperiod, hpos, hle, hne, hheld⟩ := h.armed hen
    refine ⟨ext, id, len, period, hext, hid, hlen, hperiod, hpos, hle, hne, fun j hj => ?_⟩
    by_cases hjk : k = j
    · subst hjk; simp [byteAt_set_self _ _ b hk]
    · simpa only [byteAt_set_ne _ _ _ b hjk] using hheld j hj
  stdWidth := h.stdWidth

/-- The tick of a stored byte keeps the invariant (42_repeat_scheduler R102). -/
theorem BlockInv.afterTick {s : State} (h : BlockInv s) (ext : Bool) (id : Ident) (data : List Byte) {k : Nat}
    (hk : k < s.repData.length) : BlockInv (afterTick ext id data (s.repData.set k (some s.txCounter)) s) :=
  have hset : BlockInv { s with repData := s.repData.set k (some s.txCounter) } :=
    ⟨h.ceil, h.assembler.congr ⟨rfl, rfl, rfl, rfl⟩, h.scheduler.setByte k _ hk, h.guard.congr ⟨rfl, rfl, rfl, rfl⟩,
      h.timer.congr ⟨rfl, rfl, rfl, rfl, rfl, rfl⟩⟩
  (hset.unseen (s.txCounter + 1) s.input s.script s.out).sendBusFrame _

/-- A tick, Idle or Armed, completes and keeps the invariant: an armed frame is held whole (42_repeat_scheduler R102, R103). -/
theorem BlockInv.tick {s : State} (h : BlockInv s) : ∃ t, tick s = .ok t ∧ BlockInv t := by
  cases hen : s.repEnabled with
  | false => exact ⟨s, tick_idle s hen, h⟩
  | true =>
    obtain ⟨ext, id, len, period, hext, hid, hlen, -, hpos, hle, -, hheld⟩ := h.scheduler.armed hen
    obtain ⟨k, rfl⟩ : ∃ k, len = k + 1 := ⟨len - 1, by omega⟩
    have hk : k < s.repData.length := by rw [h.scheduler.dataLength]; omega
    obtain ⟨data, hdata⟩ := readCells_of_held .repData (s.repData.set k (some s.txCounter)) (k + 1) 0
      (by simpa using held_set _ k s.txCounter hk (fun j hj => hheld j (by omega)))
    exact ⟨_, tick_armed s ext id k data hen hext hid hlen hk hdata, h.afterTick ext id data hk⟩

/-- Another value of `tmr_remaining`, from 1 to the period, keeps the invariant. -/
theorem BlockInv.withRemaining {s : State} (h : BlockInv s) {p r : Half} (hp : s.tmrPeriod = some p) (hr : r ≠ 0)
    (hle : r.toNat ≤ p.toNat) : BlockInv { s with tmrRemaining := some r } where
  ceil := h.ceil
  assembler := h.assembler.congr ⟨rfl, rfl, rfl, rfl⟩
  scheduler := h.scheduler.congr ⟨rfl, rfl, rfl, rfl, rfl, rfl⟩
  guard := h.guard.congr ⟨rfl, rfl, rfl, rfl⟩
  timer :=
    { external := h.timer.external
      together := h.timer.together
      counting := fun hrun => by
        obtain ⟨p', -, hp', hrep, -, -, -⟩ := h.timer.counting hrun
        rw [hp, Option.some.injEq] at hp'
        exact ⟨p, r, hp, hp' ▸ hrep, rfl, hr, hle⟩ }

/-- MS completes and keeps the invariant, in each case of 42_repeat_scheduler R111: stopped, counting, and at the end of a
period. -/
theorem BlockInv.millisecond {s : State} (h : BlockInv s) : ∃ t, millisecond s = .ok t ∧ BlockInv t := by
  cases hrun : s.tmrRunning with
  | false => exact ⟨s, millisecond_stopped s hrun, h⟩
  | true =>
    obtain ⟨p, r, hp, -, hr, hne, hle⟩ := h.timer.counting hrun
    by_cases hz : r - 1 = 0
    · rw [millisecond_expires s r p hrun hr hp hz]
      have hp0 : p ≠ 0 := by bv_omega
      exact (h.withRemaining hp hp0 le_rfl).tick
    · exact ⟨_, millisecond_counts s r hrun hr hz, h.withRemaining hp hz (by bv_omega)⟩

/-- MS is refused under `EXTERNAL` (30_encoding R74). -/
theorem execMs_external {s : State} (h : s.cfg.timerModel = .external) : execMs s = .refused .msExternal := by
  simp [execMs, h]

/-- MS under `INTERNAL_MS` (42_repeat_scheduler R111). -/
theorem execMs_internalMs {s : State} (h : s.cfg.timerModel = .internalMs) : execMs s = finish (millisecond s) := by
  simp [execMs, h]

/-! BUS_RX and RESET. -/

/-- A notified frame is the tracked one from then on, and the attack flag is clear again (44_replay_guard R127, R128). -/
theorem BlockInv.afterNotify {s : State} (h : BlockInv s) (f : BusFrame) (sq : Byte) (r : CheckResult) :
    BlockInv (afterNotify f sq r s) :=
  h.of_onlyGuard rfl ⟨fun _ => ⟨f.id, sq, rfl, rfl⟩, rfl⟩

/-- BUS_RX completes and keeps the invariant, whether the frame is empty or not (45_inbound_processor R131, R132). -/
theorem BlockInv.busReceive {s : State} (h : BlockInv s) (w : Wire) : ∃ t, busReceive w s = .ok t ∧ BlockInv t := by
  unfold Machine.busReceive
  cases hl : (decodeFrame s.cfg.idWordLayout w).data.getLast? with
  | none => exact ⟨s, relay_empty _ s (List.getLast?_eq_none_iff.mp hl), h⟩
  | some sq =>
    obtain ⟨r, hr⟩ := check_completes (decodeFrame s.cfg.idWordLayout w).id sq s h.guard.tracked
    exact ⟨_, relay_of_check hl hr, h.afterNotify _ sq r⟩

/-- RESET gives the reset values to all that the invariant speaks of; under `EXTERNAL` the timer was stopped before it. -/
theorem BlockInv.resetBlock {s : State} (h : BlockInv s) : BlockInv (resetBlock s) :=
  .of_resetValues h.ceil rfl rfl rfl rfl rfl rfl rfl rfl (by
    cases hm : s.cfg.timerModel with
    | external => simpa [Machine.resetBlock, hm] using h.timer.external hm
    | internalMs => simp [Machine.resetBlock, hm])

end Sys2Proof.Machine
end

section
/-! The whole machine from a state of the invariant (O52, O53), and what it says of single operations (O38, O25). -/

namespace Sys2Proof.Machine

/-- How an operation on a state of the invariant may end: it keeps the invariant, it is refused, or it is the DISPATCH that is
stuck because no frame waits (60_exceptions R155). -/
def EndsWell (s : State) : Host.Outcome State Fault Refusal → Prop
  | .next t => BlockInv t
  | .refused _ => True
  | .fault f => f = .dispatchNotEnabled ∧ s.ready = false

/-- An operation that completes and keeps the invariant ends well. -/
theorem endsWell_finish {s : State} {r : Except Fault State} (h : ∃ t, r = .ok t ∧ BlockInv t) :
    EndsWell s (finish r) := by
  obtain ⟨t, rfl, ht⟩ := h
  exact ht

/-- Every operation that an input selects ends well. A row CHECK is no such operation: it leaves the attack flag as it set it
(log 4). -/
theorem BlockInv.exec {s : State} (h : BlockInv s) (i : Instr) (hi : i.format ≠ .internal) : EndsWell s (exec i s) := by
  cases i with
  | feed b => exact endsWell_finish (feedBytes_singleton b s ▸ h.feedBytes [b])
  | dispatch =>
    cases hr : s.ready with
    | true => exact endsWell_finish (h.dispatch hr)
    | false =>
      show EndsWell s (finish (Machine.dispatch s))
      rw [dispatch_of_not_ready hr]
      exact ⟨rfl, hr⟩
  | tick =>
    show EndsWell s (execTick s)
    cases hm : s.cfg.timerModel with
    | external => rw [execTick_external s hm]; exact endsWell_finish h.tick
    | internalMs => rw [execTick_internalMs s hm]; exact h
  | stop => exact h.stop
  | busRx idw dlcw dlw dhw => exact endsWell_finish (h.busReceive ⟨idw, dlcw, dlw, dhw⟩)
  | reset => exact h.resetBlock
  | ms =>
    show EndsWell s (execMs s)
    cases hm : s.cfg.timerModel with
    | external => rw [execMs_external hm]; trivial
    | internalMs => rw [execMs_internalMs hm]; exact endsWell_finish h.millisecond
  | req0 idc payload interval => exact endsWell_finish (h.feedBytes _)
  | req1 idc payload interval => exact endsWell_finish (h.feedBytes _)
  | reqInvalid b0 b1 b2 b3 b4 b5 => exact endsWell_finish (h.feedBytes _)
  | ntf0 id app flag => exact h.notifyHost false (id.setWidth 29) app flag
  | ntf1 id app flag => exact h.notifyHost true id app flag
  | wireStd idw dlcw dlw dhw => exact endsWell_finish (h.busReceive ⟨idw, dlcw, dlw, dhw⟩)
  | wireExt idw dlcw dlw dhw => exact endsWell_finish (h.busReceive ⟨idw, dlcw, dlw, dhw⟩)
  | encode ext id data => exact absurd rfl hi
  | decode idw dlcw dlw dhw => exact absurd rfl hi
  | check id c => exact absurd rfl hi

/-! What each decoder reads is of its own format (30_encoding R53). -/

theorem decodeEvt_format {bs rest : List Byte} {i : Instr} (h : decodeEvt bs = some (i, rest)) : i.format = .evt := by
  revert h
  fun_cases decodeEvt bs <;> rintro ⟨⟩ <;> rfl

theorem decodeReq_format {bs rest : List Byte} {i : Instr} (h : decodeReq bs = some (i, rest)) : i.format = .req := by
  revert h
  fun_cases decodeReq bs <;> rintro ⟨⟩ <;> rfl

theorem decodeNtf_format {bs rest : List Byte} {i : Instr} (h : decodeNtf bs = some (i, rest)) : i.format = .ntf := by
  revert h
  fun_cases decodeNtf bs <;> intro h
  case case1 | case3 =>
    obtain ⟨r, -, hr⟩ := Option.map_eq_some_iff.mp h
    cases hr
    rfl
  all_goals cases h

theorem decodeWire_format {bs rest : List Byte} {i : Instr} (h : decodeWire bs = some (i, rest)) : i.format = .wire := by
  revert h
  fun_cases decodeWire bs <;> rintro ⟨⟩ <;> rfl

/-- No bytes of any format select an internal function (43_bus_codec R113 and R117, 44_replay_guard R123). -/
theorem decode_format_ne_internal {fmt : Format} {bs rest : List Byte} {i : Instr}
    (h : Sys2Proof.decode fmt bs = some (i, rest)) : i.format ≠ .internal := by
  cases fmt with
  | evt => rw [decodeEvt_format h]; decide
  | req => rw [decodeReq_format h]; decide
  | ntf => rw [decodeNtf_format h]; decide
  | wire => rw [decodeWire_format h]; decide
  | internal => cases h

/-- Every step from a state of the invariant ends well. -/
theorem BlockInv.step {s : State} (h : BlockInv s) : EndsWell s (step s) := by
  obtain (hstep | hstep) | ⟨-, -, hstep⟩ | ⟨-, -, hstep⟩ | ⟨i, rest, hd, hstep⟩ := step_cases s <;> rw [hstep]
  · trivial
  · trivial
  · exact h
  · exact h.exec .dispatch (by decide)
  · have hexec := (h.unseen s.txCounter rest s.script s.out).exec i (decode_format_ne_internal hd)
    cases hx : Machine.exec i { s with input := rest } <;> rw [hx] at hexec <;> exact hexec

/-- Settles O52, as `BlockInv.step` says of a step that goes on. -/
theorem everyStepKeepsTheInvariant : Obligations.EveryStepKeepsTheInvariant := by
  intro s t h hstep
  have hend := h.step
  rwa [hstep] at hend

/-- Settles O53, as `BlockInv.step` says of a step that stops. -/
theorem theBlockNeverFaults : Obligations.TheBlockNeverFaults := by
  intro s h
  have hend := h.step
  cases hstep : step s with
  | next t => exact ⟨trivial, fun f hf => by cases hf⟩
  | refused q => exact ⟨trivial, fun f hf => by cases hf⟩
  | fault f =>
    rw [hstep] at hend
    exact ⟨hend.1, fun _ _ => hend.2⟩

/-- Settles O38, by `BlockInv.millisecond`. -/
theorem msCompletes : Obligations.MsCompletes := by
  intro s h hm
  obtain ⟨t, ht, hinv⟩ := h.millisecond
  exact ⟨t, (execMs_internalMs hm).trans ((finish_next_iff _ _).mpr ht), hinv⟩

/-- Settles O25: `ready` is the first thing DISPATCH looks at. -/
theorem dispatchIsStuckWhenNothingWaits : Obligations.DispatchIsStuckWhenNothingWaits :=
  fun _ hr => (finish_fault_iff _ _).mpr (dispatch_of_not_ready hr)

end Sys2Proof.Machine
end

section
/-! What an operation does to the counter, the parameters and the emissions, said once for every instruction: it is a RESET, it
takes one counter value and sends at most one frame, or it does neither (O54, O56, O58). -/

namespace Sys2Proof.Machine

/-- The frame an emission puts on the bus, if it is one. -/
def Output.sent : Output → Option (Wire × BusResp)
  | .busTx w r => some (w, r)
  | _ => none

/-- The `bus_tx` sequence of 10_state R36 is the frames among the emissions. -/
theorem busTxs_eq_filterMap_sent (s : State) : s.busTxs = s.out.filterMap Output.sent := rfl

/-- From `s` to `t` the counter advances by `taken` and the frames `sent` go out, on top of what was emitted; the parameters and
the events to come stay. -/
structure Emits (s t : State) (taken : Byte) (sent : List (Wire × BusResp)) : Prop where
  cfg       : t.cfg = s.cfg
  inputFmt  : t.inputFmt = s.inputFmt
  input     : t.input = s.input
  txCounter : t.txCounter = s.txCounter + taken
  out       : ∃ o, t.out = s.out ++ o ∧ o.filterMap Output.sent = sent

/-- What the block does silently, in elements that `Emits` does not speak of. -/
theorem Emits.of_silent {s t : State} (e : t.cfg = s.cfg ∧ t.inputFmt = s.inputFmt ∧ t.input = s.input ∧
    t.txCounter = s.txCounter ∧ t.out = s.out) : Emits s t 0 [] := by
  obtain ⟨hcfg, hfmt, hinput, hcounter, hout⟩ := e
  exact ⟨hcfg, hfmt, hinput, by simpa using hcounter, [], by simpa using hout, rfl⟩

theorem Emits.refl (s : State) : Emits s s 0 [] := .of_silent ⟨rfl, rfl, rfl, rfl, rfl⟩

theorem Emits.trans {s u t : State} {a b : Byte} {as bs : List (Wire × BusResp)} (hsu : Emits s u a as)
    (hut : Emits u t b bs) : Emits s t (a + b) (as ++ bs) := by
  obtain ⟨o, ho, hos⟩ := hsu.out
  obtain ⟨p, hp, hps⟩ := hut.out
  exact ⟨hut.cfg.trans hsu.cfg, hut.inputFmt.trans hsu.inputFmt, hut.input.trans hsu.input,
    by rw [hut.txCounter, hsu.txCounter, BitVec.add_assoc],
    o ++ p, by rw [hp, ho, List.append_assoc], by rw [List.filterMap_append, hos, hps]⟩

/-- The frames sent are what the `bus_tx` sequence gains. -/
theorem Emits.busTxs {s t : State} {taken : Byte} {sent : List (Wire × BusResp)} (h : Emits s t taken sent) :
    t.busTxs = s.busTxs ++ sent := by
  obtain ⟨o, ho, hos⟩ := h.out
  rw [busTxs_eq_filterMap_sent, busTxs_eq_filterMap_sent, ho, List.filterMap_append, hos]

/-- Operations of the assembler send nothing: their emissions are statuses. -/
theorem OnlyAssembler.emits {s t : State} (h : OnlyAssembler s t) : Emits s t 0 [] := by
  obtain ⟨rs, ht⟩ := h
  rw [ht]
  exact ⟨rfl, rfl, rfl, by simp, _, rfl, by simp [List.filterMap_map, Function.comp_def, Output.sent]⟩

/-- STOP sends nothing: its emission is a timer command. -/
theorem stop_emits (s : State) : Emits s (stop s) 0 [] :=
  ⟨by simp [stop], by simp [stop], by simp [stop], by simp [stop], [.timerCtl .stop], by simp [stop], rfl⟩

/-- Nor does arming a repeat (41_command_dispatch R96). -/
theorem armRepeat_emits (r : Request) (data : List Byte) (s : State) : Emits s (armRepeat r data s) 0 [] :=
  ⟨by simp [armRepeat], by simp [armRepeat], by simp [armRepeat], by simp [armRepeat], [.timerCtl (.arm r.interval)],
    by simp [armRepeat], rfl⟩

/-- A send puts one frame on the bus. -/
theorem sendBusFrame_emits (w : Wire) (s : State) : Emits s (sendBusFrame w s) 0 [(w, nextResp s)] :=
  ⟨rfl, rfl, rfl, by simp, _, rfl, rfl⟩

/-- A notification sends nothing on the bus. -/
theorem notifyHost_emits (ext : Bool) (id : Ident) (app : List Byte) (flag : Bool) (s : State) :
    Emits s (notifyHost ext id app flag s) 0 [] :=
  ⟨rfl, rfl, rfl, by simp, _, rfl, rfl⟩

/-- DISPATCH takes one counter value and sends at most one frame: the single shot (41_command_dispatch R93, R94, R96). -/
theorem runRequest_emits (r : Request) (s : State) : ∃ sent, sent.length ≤ 1 ∧ Emits s (runRequest r s) 1 sent := by
  have htake : Emits s (resetBuffer { s with txCounter := s.txCounter + 1 }) 1 [] :=
    ⟨rfl, rfl, rfl, rfl, [], (List.append_nil _).symm, rfl⟩
  obtain ⟨-, h⟩ | ⟨-, h⟩ := runRequest_cases r s <;> rw [h]
  · exact ⟨[_], le_rfl, (htake.trans (stop_emits _)).trans (sendBusFrame_emits _ _)⟩
  · exact ⟨[], by simp, htake.trans (armRepeat_emits r _ _)⟩

/-- An Armed tick takes one counter value and sends one frame (42_repeat_scheduler R102). -/
theorem tick_emits {s t : State} (h : tick s = .ok t) (hen : s.repEnabled = true) :
    ∃ sent, sent.length ≤ 1 ∧ Emits s t 1 sent := by
  obtain ⟨hidle, -⟩ | ⟨-, ext, id, k, data, -, -, -, -, -, rfl⟩ := tick_cases s t h
  · simp [hidle] at hen
  · exact ⟨[_], le_rfl, rfl, rfl, rfl, rfl, _, rfl, rfl⟩

/-- BUS_RX takes no counter value and sends nothing on the bus (45_inbound_processor R136). -/
theorem busReceive_emits {w : Wire} {s t : State} (h : busReceive w s = .ok t) : Emits s t 0 [] := by
  obtain ⟨-, rfl⟩ | ⟨sq, r, -, -, rfl⟩ := relay_cases _ s t h
  · exact .refl t
  · exact ⟨rfl, rfl, rfl, by simp [afterNotify], _, rfl, rfl⟩

/-- CHECK as a row of its own takes no counter value and emits nothing (log 4). -/
theorem execCheck_emits {id : Ident} {c : Byte} {s t : State} (h : execCheck id c s = .next t) : Emits s t 0 [] := by
  cases hc : check id c s with
  | error f => simp [execCheck, hc, Except.map] at h
  | ok p =>
    obtain ⟨hp, -⟩ := check_cases id c s p.1 p.2 hc
    simp only [execCheck, hc, Except.map, finish_ok, Host.Outcome.next.injEq, hp] at h
    subst h
    exact .of_silent ⟨rfl, rfl, rfl, rfl, rfl⟩

/-- The operations that take a counter value: every DISPATCH, and an Armed tick, which is the TICK event under `EXTERNAL` and
the last MS of a period under `INTERNAL_MS` (10_state R21, 42_repeat_scheduler R110, R111). -/
def TakesCounter : Instr → State → Prop
  | .dispatch, _ => True
  | .tick, s => s.cfg.timerModel = .external ∧ s.repEnabled = true
  | .ms, s => s.tmrRunning = true ∧ s.tmrRemaining = some 1 ∧ s.repEnabled = true
  | _, _ => False

/-- Everything an operation that completes can do to the counter and the bus. -/
def Accounted (i : Instr) (s t : State) : Prop :=
  (TakesCounter i s ∧ ∃ sent, sent.length ≤ 1 ∧ Emits s t 1 sent) ∨ (¬ TakesCounter i s ∧ Emits s t 0 [])

/-- The reference timer reaches 0 at this MS exactly when it stood at 1. -/
theorem sub_one_eq_zero_iff (r : Half) : r - 1 = 0 ↔ r = 1 := by
  constructor <;> intro h <;> bv_omega

/-- The TICK event, under either timer model. -/
theorem execTick_accounted {s t : State} (h : execTick s = .next t) : Accounted .tick s t := by
  obtain ⟨hm, rfl⟩ | ⟨hm, htick⟩ := execTick_cases s t h
  · exact .inr ⟨fun hx => by simp [TakesCounter, hm] at hx, .refl t⟩
  · cases hen : s.repEnabled with
    | true => exact .inl ⟨⟨hm, hen⟩, tick_emits htick hen⟩
    | false =>
      rw [tick_idle s hen] at htick
      cases htick
      exact .inr ⟨fun hx => by simp [TakesCounter, hen] at hx, .refl s⟩

/-- MS, in each case of 42_repeat_scheduler R111. -/
theorem millisecond_accounted {s t : State} (h : millisecond s = .ok t) : Accounted .ms s t := by
  have hset : ∀ r, Emits s { s with tmrRemaining := r } 0 [] := fun _ => .of_silent ⟨rfl, rfl, rfl, rfl, rfl⟩
  obtain ⟨hrun, rfl⟩ | ⟨-, r, hr, hz, rfl⟩ | ⟨hrun, r, p, hr, hz, -, htick⟩ := millisecond_cases s t h
  · exact .inr ⟨fun hx => by simp [TakesCounter, hrun] at hx, .refl t⟩
  · rw [Ne, sub_one_eq_zero_iff] at hz
    exact .inr ⟨fun ⟨_, hone, _⟩ => hz (Option.some.inj (hr ▸ hone)), hset _⟩
  · rw [sub_one_eq_zero_iff] at hz
    cases hen : s.repEnabled with
    | true =>
      obtain ⟨sent, hlen, hsent⟩ := tick_emits htick hen
      exact .inl ⟨⟨hrun, hz ▸ hr, hen⟩, sent, hlen, by simpa using (hset _).trans hsent⟩
    | false =>
      rw [tick_idle { s with tmrRemaining := some p } hen] at htick
      cases htick
      exact .inr ⟨fun hx => by simp [TakesCounter, hen] at hx, hset _⟩

/-- Every operation but RESET is accounted for. Beside DISPATCH, TICK and MS none takes a counter value: `TakesCounter` is false
of them by its definition, which is what `id` says below. -/
theorem exec_accounted {i : Instr} {s t : State} (hi : i ≠ .reset) (h : exec i s = .next t) : Accounted i s t := by
  have quiet : ¬ TakesCounter i s → Emits s t 0 [] → Accounted i s t := fun hn he => .inr ⟨hn, he⟩
  have fed : ∀ bs, finish (feedBytes bs s) = .next t → Emits s t 0 [] := fun bs hb =>
    OnlyAssembler.emits (feedBytes_frame bs s t ((finish_next_iff _ _).mp hb))
  have received : ∀ w, finish (busReceive w s) = .next t → Emits s t 0 [] := fun w hw =>
    busReceive_emits ((finish_next_iff _ _).mp hw)
  cases i with
  | feed b => exact quiet id (fed [b] (feedBytes_singleton b s ▸ h))
  | dispatch =>
    obtain ⟨-, r, -, rfl⟩ := (dispatch_eq_ok s t).mp ((finish_next_iff _ _).mp h)
    exact .inl ⟨trivial, runRequest_emits r s⟩
  | tick => exact execTick_accounted h
  | stop =>
    cases h
    exact quiet id (stop_emits s)
  | busRx idw dlcw dlw dhw => exact quiet id (received _ h)
  | reset => exact absurd rfl hi
  | ms =>
    cases hm : s.cfg.timerModel with
    | external => cases (execMs_external hm).symm.trans h
    | internalMs => exact millisecond_accounted ((finish_next_iff _ _).mp ((execMs_internalMs hm).symm.trans h))
  | req0 idc payload interval => exact quiet id (fed _ h)
  | req1 idc payload interval => exact quiet id (fed _ h)
  | reqInvalid b0 b1 b2 b3 b4 b5 => exact quiet id (fed _ h)
  | ntf0 nid app flag =>
    cases h
    exact quiet id (notifyHost_emits _ _ _ _ _)
  | ntf1 nid app flag =>
    cases h
    exact quiet id (notifyHost_emits _ _ _ _ _)
  | wireStd idw dlcw dlw dhw => exact quiet id (received _ h)
  | wireExt idw dlcw dlw dhw => exact quiet id (received _ h)
  | encode ext nid data =>
    cases h
    exact quiet id (.of_silent ⟨rfl, rfl, rfl, rfl, rfl⟩)
  | decode idw dlcw dlw dhw =>
    cases h
    exact quiet id (.of_silent ⟨rfl, rfl, rfl, rfl, rfl⟩)
  | check nid c => exact quiet id (execCheck_emits h)

/-- Whether it takes a counter value or not, an accounted operation keeps the parameters and emits some frames. -/
theorem Accounted.emits {i : Instr} {s t : State} (h : Accounted i s t) : ∃ taken sent, Emits s t taken sent := by
  obtain ⟨-, sent, -, hsent⟩ | ⟨-, hquiet⟩ := h
  · exact ⟨1, sent, hsent⟩
  · exact ⟨0, [], hquiet⟩

/-- RESET always goes on, to the block with its reset values (70_reset_and_hazards R157). -/
theorem exec_reset_eq_next {s t : State} (h : exec .reset s = .next t) : t = resetBlock s := by
  cases h
  rfl

/-- Settles O54: `TakesCounter` is what the four clauses say of the counter. -/
theorem onlyTransmissionsAdvanceTheCounter : Obligations.OnlyTransmissionsAdvanceTheCounter := by
  intro s t i h
  have take : i ≠ .reset → TakesCounter i s → t.txCounter = s.txCounter + 1 := by
    intro hi hx
    obtain ⟨-, sent, -, hsent⟩ | ⟨hn, -⟩ := exec_accounted hi h
    · exact hsent.txCounter
    · exact absurd hx hn
  have keep : i ≠ .reset → ¬ TakesCounter i s → t.txCounter = s.txCounter := by
    intro hi hn
    obtain ⟨hx, -⟩ | ⟨-, hquiet⟩ := exec_accounted hi h
    · exact absurd hx hn
    · simpa using hquiet.txCounter
  refine ⟨?_, ?_, ?_, ?_⟩
  · rintro rfl
    exact take nofun trivial
  · rintro rfl hm hen
    exact take nofun ⟨hm, hen⟩
  · rintro rfl
    split
    · next hx => exact take nofun hx
    · next hn => exact keep nofun hn
  · intro hdispatch htick hms hreset
    refine keep hreset fun hx => ?_
    cases i with
    | dispatch => exact hdispatch rfl
    | tick => obtain ⟨hm, hen⟩ := hx; simp [hm, hen] at htick
    | ms => exact hms rfl
    | _ => exact hx

/-- Settles O56: only an operation that takes a counter value can send, and at most one frame. -/
theorem everySendTakesOneCounterValue : Obligations.EverySendTakesOneCounterValue := by
  intro s t i h
  by_cases hi : i = .reset
  · subst hi
    rw [exec_reset_eq_next h]
    exact .inl rfl
  · obtain ⟨hx, sent, hlen, hsent⟩ | ⟨-, hquiet⟩ := exec_accounted hi h
    · match sent, hlen with
      | [], _ => exact .inl (by simpa using hsent.busTxs)
      | [(w, r)], _ =>
        refine .inr ⟨?_, hsent.txCounter, w, r, hsent.busTxs⟩
        cases i with
        | dispatch => exact .inl rfl
        | tick => exact .inr ⟨.inl ⟨rfl, hx.1⟩, hx.2⟩
        | ms => exact .inr ⟨.inr rfl, hx.2.2⟩
        | _ => exact hx.elim
    · exact .inl (by simpa using hquiet.busTxs)

/-- Settles O58: RESET writes none of the four, and every other operation is accounted for. -/
theorem parametersAndPastEmissionsStay : Obligations.ParametersAndPastEmissionsStay := by
  intro s t i h
  by_cases hi : i = .reset
  · subst hi
    rw [exec_reset_eq_next h]
    exact ⟨rfl, rfl, rfl, [], (List.append_nil _).symm⟩
  · obtain ⟨taken, sent, hemits⟩ := (exec_accounted hi h).emits
    obtain ⟨o, ho, -⟩ := hemits.out
    exact ⟨hemits.cfg, hemits.inputFmt, hemits.input, o, ho⟩

end Sys2Proof.Machine
end

section
/-! A step with no event to come (O7), and what RESET leaves alone (O11). -/

namespace Sys2Proof.Machine

/-- A step on which nothing is enabled holds the state (60_exceptions R154). -/
theorem step_of_fetch_idle {s : State} (hf : fetch s = .idle) : step s = .next s := by
  rw [step, hf]

/-- With no event to come the fetch looks at `ready` alone (10_state R34; log 2). -/
theorem fetch_of_no_input {s : State} (hc : s.cfg.Admitted) (hi : s.input = []) :
    fetch s = if s.ready then .run .dispatch s else .idle := by
  have hceil : ¬ s.cfg.ceil < Config.minCeil := Nat.not_lt.mpr hc
  simp [fetch, hceil, hi]

/-- Settles O7, by the two answers of the fetch. -/
theorem emptyInputDispatchesOrIdles : Obligations.EmptyInputDispatchesOrIdles := by
  intro s hc hi
  have hf := fetch_of_no_input hc hi
  constructor <;> intro hr <;> simp only [hr, if_true, if_false, Bool.false_eq_true] at hf
  · exact step_of_fetch_run hf
  · exact step_of_fetch_idle hf

/-- Without a reference timer RESET leaves its running bit (log 13). -/
theorem tmrRunning_resetBlock_external {s : State} (h : s.cfg.timerModel = .external) :
    (resetBlock s).tmrRunning = s.tmrRunning := by
  simp [resetBlock, h]

/-- Settles O11: RESET writes none of these fields but the running bit, and that only under `INTERNAL_MS`. -/
theorem resetLeavesWhatIsNotTheBlocks : Obligations.ResetLeavesWhatIsNotTheBlocks :=
  fun s => ⟨resetBlock s, rfl, rfl, rfl, rfl, rfl, rfl, tmrRunning_resetBlock_external⟩

end Sys2Proof.Machine
end

section
/-! The byte a frame ends with on the bus: DISPATCH and an Armed tick put the counter there, so that a run without RESET sends
its sequence bytes from the values the counter takes, in order (O57). -/

namespace Sys2Proof.Machine

/-! The payload bytes of wire words. -/

/-- The data words hold their eight bytes in order (30_encoding R69). -/
theorem getElem?_wireBytes (dlw dhw : Word) {i : Nat} (hi : i < 8) :
    (leBytes32 dlw ++ leBytes32 dhw)[i]? = some (wireByte dlw dhw i) := by
  interval_cases i <;> rfl

/-- An encoded frame carries its payload bytes at their positions, and zeros after them (43_bus_codec R114). -/
theorem wireByte_encodeFrame (layout : IdWordLayout) (ext : Bool) (id : Ident) {data : List Byte}
    (hlen : data.length ≤ Config.maxBusPayload) {i : Nat} (hi : i < 8) :
    wireByte (encodeFrame layout ext id data).dlw (encodeFrame layout ext id data).dhw i = data.getD i 0 := by
  apply Option.some.inj
  rw [← getElem?_wireBytes _ _ hi]
  simp only [encodeFrame, List.take_of_length_le hlen, leBytes32_dataWord]
  interval_cases i <;> rfl

/-- The length word of an encoded frame says how many payload bytes there are (43_bus_codec R113). -/
theorem length_encodeFrame (layout : IdWordLayout) (ext : Bool) (id : Ident) {data : List Byte}
    (hlen : data.length ≤ Config.maxBusPayload) :
    ((encodeFrame layout ext id data).dlcw.extractLsb' 0 4).toNat = data.length := by
  rw [encodeFrame_dlcw, Nat.min_eq_right hlen]
  simp only [Config.maxBusPayload] at hlen
  simp only [BitVec.extractLsb'_toNat, BitVec.toNat_ofNat, Nat.shiftRight_zero]
  omega

/-- The last byte on the wire is the last byte of the payload. -/
theorem lastWireByte_encodeFrame (layout : IdWordLayout) (ext : Bool) (id : Ident) {data : List Byte} {c : Byte}
    (hlen : data.length ≤ Config.maxBusPayload) (hlast : data.getLast? = some c) :
    lastWireByte (encodeFrame layout ext id data) = c := by
  have hpos : data ≠ [] := by rintro rfl; simp at hlast
  have hbus : data.length - 1 < 8 := by
    have := List.length_pos_iff.mpr hpos
    simp only [Config.maxBusPayload] at hlen
    omega
  rw [lastWireByte, length_encodeFrame layout ext id hlen, wireByte_encodeFrame layout ext id hlen hbus]
  rw [List.getLast?_eq_getElem?] at hlast
  simp [hlast]

/-! What an operation that sends puts into its frame. -/

/-- A single shot puts its frame on the bus and nothing else (41_command_dispatch R94). -/
theorem busTxs_singleShot (r : Request) (data : List Byte) (s : State) :
    (singleShot r data s).busTxs =
      s.busTxs ++ [(encodeFrame s.cfg.idWordLayout r.ext r.id data, nextResp (stop s))] := by
  have hstop : (stop s).busTxs = s.busTxs := by simpa using (stop_emits s).busTxs
  rw [← hstop]
  exact (sendBusFrame_emits _ (stop s)).busTxs

/-- DISPATCH sends the counter value it takes: at most 7 payload bytes stand before it (41_command_dispatch R93, R98). -/
theorem lastWireByte_of_dispatch {s t : State} {w : Wire} {resp : BusResp} (h : dispatch s = .ok t)
    (hsent : t.busTxs = s.busTxs ++ [(w, resp)]) : lastWireByte w = s.txCounter := by
  obtain ⟨-, r, hr, rfl⟩ := (dispatch_eq_ok s t).mp h
  obtain ⟨hlen, -⟩ := readRequest_ok _ _ hr
  have htake : (resetBuffer { s with txCounter := s.txCounter + 1 }).busTxs = s.busTxs := rfl
  obtain ⟨-, hrun⟩ | ⟨-, hrun⟩ := runRequest_cases r s <;> rw [hrun] at hsent
  · rw [busTxs_singleShot, htake] at hsent
    cases List.append_cancel_left hsent
    exact lastWireByte_encodeFrame _ _ _ (by simpa using Nat.succ_le_succ hlen) (by simp)
  · rw [(armRepeat_emits r _ _).busTxs, htake] at hsent
    cases List.append_cancel_left hsent

/-- An Armed tick sends the counter value it takes: it wrote it over the last of the stored bytes (42_repeat_scheduler R102). -/
theorem lastWireByte_of_tick {s t : State} {w : Wire} {resp : BusResp} (hcells : s.repData.length = Config.maxBusPayload)
    (h : tick s = .ok t) (hsent : t.busTxs = s.busTxs ++ [(w, resp)]) : lastWireByte w = s.txCounter := by
  obtain ⟨-, rfl⟩ | ⟨-, ext, id, k, data, -, -, -, hk, hdata, rfl⟩ := tick_cases s t h
  · simp at hsent
  · cases List.append_cancel_left ((sendBusFrame_emits _ _).busTxs.symm.trans hsent)
    obtain ⟨hlen, hbytes⟩ := (readCells_eq_ok _ _ _ _ _).mp hdata
    have hlast : data.getLast? = some s.txCounter := by
      have hk' := hbytes k (Nat.lt_succ_self k)
      rw [Nat.zero_add, byteAt_set_self _ _ _ hk] at hk'
      rw [List.getLast?_eq_getElem?, hlen, Nat.add_sub_cancel, ← hk']
    exact lastWireByte_encodeFrame _ _ _ (by omega) hlast

/-- So does the MS that ends a period (42_repeat_scheduler R111). -/
theorem lastWireByte_of_millisecond {s t : State} {w : Wire} {resp : BusResp}
    (hcells : s.repData.length = Config.maxBusPayload) (h : millisecond s = .ok t)
    (hsent : t.busTxs = s.busTxs ++ [(w, resp)]) : lastWireByte w = s.txCounter := by
  obtain ⟨-, rfl⟩ | ⟨-, r, -, -, rfl⟩ | ⟨-, r, p, -, -, -, htick⟩ := millisecond_cases s t h
  · simp at hsent
  · simp [busTxs_eq_filterMap_sent] at hsent
  · exact lastWireByte_of_tick (s := { s with tmrRemaining := some p }) hcells htick hsent

/-- Whatever operation sends a frame, the frame ends with the counter value of before it (20_memory R51). -/
theorem lastWireByte_of_send {i : Instr} {s t : State} {w : Wire} {resp : BusResp}
    (hcells : s.repData.length = Config.maxBusPayload) (h : exec i s = .next t)
    (hsent : t.busTxs = s.busTxs ++ [(w, resp)]) : lastWireByte w = s.txCounter := by
  obtain hquiet | ⟨rfl | ⟨⟨rfl, hm⟩ | rfl, -⟩, -⟩ := everySendTakesOneCounterValue s t i h
  · simp [hquiet] at hsent
  · exact lastWireByte_of_dispatch ((finish_next_iff _ _).mp h) hsent
  · exact lastWireByte_of_tick hcells ((finish_next_iff _ _).mp ((execTick_external s hm).symm.trans h)) hsent
  · cases hm : s.cfg.timerModel with
    | external => cases (execMs_external hm).symm.trans h
    | internalMs =>
      exact lastWireByte_of_millisecond hcells ((finish_next_iff _ _).mp ((execMs_internalMs hm).symm.trans h)) hsent

/-! The values a run takes from the counter. -/

/-- The sequence bytes of frames on the bus. -/
def sequenceBytes (sent : List (Wire × BusResp)) : List Byte := sent.map (fun p => lastWireByte p.1)

@[simp] theorem sequenceBytes_nil : sequenceBytes [] = [] := rfl

@[simp] theorem sequenceBytes_append (as bs : List (Wire × BusResp)) :
    sequenceBytes (as ++ bs) = sequenceBytes as ++ sequenceBytes bs := List.map_append

/-- The next `n` values of a counter that stands at `c` (10_state R21). -/
def counterValues (c : Byte) (n : Nat) : List Byte := (List.range n).map (fun j => c + BitVec.ofNat 8 j)

theorem counterValues_succ (c : Byte) (n : Nat) : counterValues c (n + 1) = c :: counterValues (c + 1) n := by
  simp only [counterValues, List.range_succ_eq_map, List.map_cons, List.map_map, BitVec.ofNat_eq_ofNat, BitVec.add_zero,
    List.cons.injEq, true_and]
  refine List.map_congr_left fun j _ => ?_
  simp only [Function.comp_apply, Nat.succ_eq_add_one, BitVec.ofNat_add]
  rw [BitVec.add_assoc, BitVec.add_comm (1#8)]

/-- The counter takes 256 values before it repeats one (20_memory R51). -/
theorem nodup_counterValues (c : Byte) {n : Nat} (hn : n ≤ 256) : (counterValues c n).Nodup := by
  refine List.Nodup.map_on (fun j hj k hk heq => ?_) List.nodup_range
  rw [List.mem_range] at hj hk
  bv_omega

/-- An operation that takes a counter value sends that value or nothing; one that takes none sends nothing. -/
theorem exec_sequenceBytes {i : Instr} {s t : State} (hcells : s.repData.length = Config.maxBusPayload) (hi : i ≠ .reset)
    (h : exec i s = .next t) : ∃ sent, t.busTxs = s.busTxs ++ sent ∧
      ((t.txCounter = s.txCounter + 1 ∧ (sequenceBytes sent).Sublist [s.txCounter]) ∨
        (t.txCounter = s.txCounter ∧ sent = [])) := by
  obtain ⟨-, sent, hlen, hemits⟩ | ⟨-, hquiet⟩ := exec_accounted hi h
  · refine ⟨sent, hemits.busTxs, .inl ⟨hemits.txCounter, ?_⟩⟩
    match sent, hlen with
    | [], _ => exact List.nil_sublist _
    | [(w, resp)], _ => simp [sequenceBytes, lastWireByte_of_send hcells h hemits.busTxs]
  · exact ⟨[], hquiet.busTxs, .inr ⟨by simpa using hquiet.txCounter, rfl⟩⟩

/-- A run that goes on went on in its first operation. -/
theorem execAll_cons_eq_next {i : Instr} {is : List Instr} {s t : State} (h : execAll (i :: is) s = .next t) :
    ∃ u, exec i s = .next u ∧ execAll is u = .next t := by
  rw [execAll] at h
  cases hx : exec i s with
  | next u => exact ⟨u, rfl, by rwa [hx] at h⟩
  | fault f => rw [hx] at h; cases h
  | refused q => rw [hx] at h; cases h

/-- The first operation of a run is counted by the byte it leaves in the counter. -/
theorem incrementsTaken_cons {i : Instr} {s u : State} (is : List Instr) (h : exec i s = .next u) :
    incrementsTaken (i :: is) s = (if u.txCounter = s.txCounter then 0 else 1) + incrementsTaken is u := by
  rw [incrementsTaken, h]

/-- An increment leaves another byte, also when it wraps. -/
theorem add_one_ne_self (c : Byte) : c + 1 ≠ c := by bv_omega

/-- A run without RESET sends, in order, some of the values that the counter takes in it: each at most once around. -/
theorem execAll_sequenceBytes (ops : List Instr) : ∀ {s t : State}, BlockInv s →
    (∀ i ∈ ops, i.format ≠ .internal ∧ i ≠ .reset) → execAll ops s = .next t →
    ∃ sent, t.busTxs = s.busTxs ++ sent ∧
      (sequenceBytes sent).Sublist (counterValues s.txCounter (incrementsTaken ops s)) := by
  induction ops with
  | nil =>
    intro s t _ _ h
    cases h
    exact ⟨[], by simp, List.nil_sublist _⟩
  | cons i is ih =>
    intro s t hinv hops h
    obtain ⟨u, hu, ht⟩ := execAll_cons_eq_next h
    obtain ⟨⟨hformat, hreset⟩, hrest⟩ := List.forall_mem_cons.mp hops
    have huinv : BlockInv u := by
      have hend := hinv.exec i hformat
      rwa [hu] at hend
    obtain ⟨first, hfirst, hstep⟩ := exec_sequenceBytes hinv.scheduler.dataLength hreset hu
    obtain ⟨later, hlater, hsub⟩ := ih huinv hrest ht
    refine ⟨first ++ later, by rw [hlater, hfirst, List.append_assoc], ?_⟩
    rw [incrementsTaken_cons is hu, sequenceBytes_append]
    obtain ⟨hcounter, hone⟩ | ⟨hcounter, rfl⟩ := hstep <;> rw [hcounter] at hsub ⊢
    · rw [if_neg (add_one_ne_self _), Nat.add_comm, counterValues_succ]
      exact hone.append hsub
    · simpa using hsub

/-- Settles O57: the sequence bytes are a sublist of at most 256 successive counter values. -/
theorem noCounterValueIsSentTwice : Obligations.NoCounterValueIsSentTwice := by
  intro s t ops sent hinv hops hmax h hsent
  obtain ⟨sent', hsent', hsub⟩ := execAll_sequenceBytes ops hinv hops h
  obtain rfl : sent = sent' := List.append_cancel_left (hsent.symm.trans hsent')
  exact (nodup_counterValues s.txCounter hmax).sublist hsub

end Sys2Proof.Machine
end

section
/-! The decoder reads back what the encoder wrote, format by format, so that a stream of encoded records is valid and is run one
record a step, in order (O6). -/

namespace Sys2Proof

/-- An `EVT` record reads back (30_encoding R74). -/
theorem decodeEvt_encode {i : Instr} (hf : i.format = .evt) (rest : List Byte) :
    decodeEvt (encode i ++ rest) = some (i, rest) := by
  cases i <;> cases hf
  case busRx idw dlcw dlw dhw => simp [encode, decodeEvt]
  all_goals rfl

/-- A mode 0 frame is read by the length byte at position 3; its body begins right after it (30_encoding R56). -/
theorem decodeReq_mode0 (b1 b2 len : Byte) {body payload rest : List Byte} {interval : Half} (hlen : len.toNat ≤ 7)
    (hbody : 2 ≤ body.length) (htake : takeBody len.toNat body = some (payload, interval, rest)) :
    decodeReq (0x00#8 :: b1 :: b2 :: len :: body) = some (.req0 (be16 b1 b2) payload interval, rest) := by
  obtain ⟨b4, b5, tail, rfl⟩ : ∃ b4 b5 tail, body = b4 :: b5 :: tail := by
    match body, hbody with
    | b4 :: b5 :: tail, _ => exact ⟨b4, b5, tail, rfl⟩
  simp [decodeReq, badRequest, Config.maxCmdPayload, Nat.not_lt.mpr hlen, htake]

/-- A mode 1 frame is read by the length byte at position 5 (30_encoding R57). -/
theorem decodeReq_mode1 (b1 b2 b3 b4 len : Byte) {body payload rest : List Byte} {interval : Half} (hlen : len.toNat ≤ 7)
    (htake : takeBody len.toNat body = some (payload, interval, rest)) :
    decodeReq (0x01#8 :: b1 :: b2 :: b3 :: b4 :: len :: body) =
      some (.req1 (be32 b1 b2 b3 b4) payload interval, rest) := by
  simp [decodeReq, badRequest, Config.maxCmdPayload, Nat.not_lt.mpr hlen, htake]

/-- A payload of at most 7 bytes and its interval are taken off by the payload's length byte (30_encoding R55, R59). -/
theorem takeBody_lenByte (payload : List Byte) (hlen : payload.length ≤ 7) (interval : Half) (rest : List Byte) :
    takeBody (lenByte payload.length).toNat (payload ++ (beBytes16 interval ++ rest)) = some (payload, interval, rest) := by
  rw [lenByte_toNat _ (by omega)]
  exact (takeBody_append payload _ _ rest).trans (by rw [be16_beBytes16])

/-- A request frame reads back: a header that is not invalid says where the body is, and an invalid one is what it is read as
(30_encoding R55, R62). -/
theorem decodeReq_encode {i : Instr} (hf : i.format = .req) (hw : i.wellFormed = true) (rest : List Byte) :
    decodeReq (encode i ++ rest) = some (i, rest) := by
  cases i <;> cases hf
  case req0 idc payload interval =>
    have hlen : payload.length ≤ 7 := of_decide_eq_true hw
    have h := decodeReq_mode0 (idc.extractLsb' 8 8) (idc.extractLsb' 0 8) (lenByte payload.length)
      (by rwa [lenByte_toNat _ (by omega)]) (by simp [beBytes16]; omega) (takeBody_lenByte payload hlen interval rest)
    simpa [encode, beBytes16] using h
  case req1 idc payload interval =>
    have hlen : payload.length ≤ 7 := of_decide_eq_true hw
    have h := decodeReq_mode1 (idc.extractLsb' 24 8) (idc.extractLsb' 16 8) (idc.extractLsb' 8 8) (idc.extractLsb' 0 8)
      (lenByte payload.length) (by rwa [lenByte_toNat _ (by omega)]) (takeBody_lenByte payload hlen interval rest)
    simpa [encode, beBytes32] using h
  case reqInvalid b0 b1 b2 b3 b4 b5 =>
    exact if_pos hw

/-- A notification of a standard frame is read by its 16-bit container (30_encoding R64). -/
theorem decodeNtf_std (container : Half) {note app rest : List Byte} {flag : Bool} (hid : container.toNat < 2 ^ 11)
    (hnote : takeNote note = some (app, flag, rest)) :
    decodeNtf (0x00#8 :: (beBytes16 container ++ note)) = some (.ntf0 (container.setWidth 11) app flag, rest) := by
  simp only [beBytes16, List.cons_append, List.nil_append, decodeNtf, be16_beBytes16, if_pos hid, hnote, Option.map_some,
    if_true]

/-- A notification of an extended frame is read by its 32-bit container (30_encoding R65). -/
theorem decodeNtf_ext (container : Word) {note app rest : List Byte} {flag : Bool} (hid : container.toNat < 2 ^ 29)
    (hnote : takeNote note = some (app, flag, rest)) :
    decodeNtf (0x01#8 :: (beBytes32 container ++ note)) = some (.ntf1 (container.setWidth 29) app flag, rest) := by
  have hmode : (0x01#8 : Byte) ≠ 0x00#8 := by decide
  simp only [beBytes32, List.cons_append, List.nil_append, decodeNtf, be32_beBytes32, if_neg hmode, if_pos hid, hnote,
    Option.map_some, if_true]

/-- A notification reads back: its identifier fits the container, its length the payload (30_encoding R63). -/
theorem decodeNtf_encode {i : Instr} (hf : i.format = .ntf) (hw : i.wellFormed = true) (rest : List Byte) :
    decodeNtf (encode i ++ rest) = some (i, rest) := by
  cases i <;> cases hf
  case ntf0 id app flag =>
    have hid : ((id.setWidth 29).setWidth 16).toNat < 2 ^ 11 := by
      simp only [BitVec.toNat_setWidth]; omega
    have hback : ((id.setWidth 29).setWidth 16).setWidth 11 = id := by bv_omega
    have h := decodeNtf_std _ hid (takeNote_append app flag rest (of_decide_eq_true hw))
    simpa only [encode, ntfBytes, flagByte, hback, Bool.false_eq_true, if_false, List.append_assoc, List.cons_append,
      List.nil_append] using h
  case ntf1 id app flag =>
    have hid : (id.setWidth 32).toNat < 2 ^ 29 := by
      simp only [BitVec.toNat_setWidth]; omega
    have hback : (id.setWidth 32).setWidth 29 = id := by bv_omega
    have h := decodeNtf_ext _ hid (takeNote_append app flag rest (of_decide_eq_true hw))
    simpa only [encode, ntfBytes, flagByte, hback, if_true, List.append_assoc, List.cons_append, List.nil_append] using h

/-- Wire words read back, as the row of their IDE bit (30_encoding R70, R71). -/
theorem decodeWire_encode {i : Instr} (hf : i.format = .wire) (hw : i.wellFormed = true) (rest : List Byte) :
    decodeWire (encode i ++ rest) = some (i, rest) := by
  cases i <;> cases hf
  case wireStd idw dlcw dlw dhw =>
    have hide : ¬ idw.getLsbD 2 = true := by simpa [Instr.wellFormed] using hw
    simp only [encode, decodeWire, List.append_assoc, takeWords_leBytes32, if_neg hide]
  case wireExt idw dlcw dlw dhw =>
    have hide : idw.getLsbD 2 = true := hw
    simp only [encode, decodeWire, List.append_assoc, takeWords_leBytes32, if_pos hide]

/-- Whatever the encoder writes of an instruction of an input format reads back (30_encoding sections 1 to 4). -/
theorem decode_encode {i : Instr} (hi : i.format ≠ .internal) (hw : i.wellFormed = true) (rest : List Byte) :
    decode i.format (encode i ++ rest) = some (i, rest) := by
  cases hf : i.format with
  | evt => exact decodeEvt_encode hf rest
  | req => exact decodeReq_encode hf hw rest
  | ntf => exact decodeNtf_encode hf hw rest
  | wire => exact decodeWire_encode hf hw rest
  | internal => exact absurd hf hi

/-- A stream is read one instruction at a time. -/
theorem streamOk_of_decode {fmt : Format} {bs rest : List Byte} {i : Instr} (fuel : Nat) (hne : bs ≠ [])
    (hd : decode fmt bs = some (i, rest)) : streamOk fmt (fuel + 1) bs = streamOk fmt fuel rest := by
  obtain ⟨b, bs, rfl⟩ := List.exists_cons_of_ne_nil hne
  simp only [streamOk, hd]

/-- Encoded records are a stream, with fuel for as many of them. -/
theorem streamOk_encode {fmt : Format} (hfmt : fmt ≠ .internal) (records : List Instr) :
    ∀ {fuel : Nat}, records.length ≤ fuel → (∀ j ∈ records, j.wellFormed = true ∧ j.format = fmt) →
      streamOk fmt fuel (records.map encode).flatten = true := by
  induction records with
  | nil => intro fuel _ _; cases fuel <;> rfl
  | cons j js ih =>
    intro fuel hfuel hrecords
    obtain ⟨⟨hw, rfl⟩, hrest⟩ := List.forall_mem_cons.mp hrecords
    obtain ⟨fuel, rfl⟩ : ∃ n, fuel = n + 1 := ⟨fuel - 1, by simp at hfuel; omega⟩
    rw [List.map_cons, List.flatten_cons,
      streamOk_of_decode fuel (List.append_ne_nil_of_left_ne_nil (encode_ne_nil j hfmt) _) (decode_encode hfmt hw _)]
    exact ih (Nat.le_of_succ_le_succ hfuel) hrest

/-- Records are no more than their bytes. -/
theorem length_le_length_encode {fmt : Format} (hfmt : fmt ≠ .internal) (records : List Instr)
    (h : ∀ j ∈ records, j.format = fmt) : records.length ≤ (records.map encode).flatten.length := by
  induction records with
  | nil => exact le_rfl
  | cons j js ih =>
    obtain ⟨rfl, hrest⟩ := List.forall_mem_cons.mp h
    have hpos := List.length_pos_iff.mpr (encode_ne_nil j hfmt)
    have := ih hrest
    simp only [List.map_cons, List.flatten_cons, List.length_cons, List.length_append]
    omega

/-- Encoded records of one format are a valid stream of it (30_encoding R74). -/
theorem validStream_encode {fmt : Format} (hfmt : fmt ≠ .internal) (records : List Instr)
    (h : ∀ j ∈ records, j.wellFormed = true ∧ j.format = fmt) :
    validStream fmt (records.map encode).flatten = true :=
  streamOk_encode hfmt records (length_le_length_encode hfmt records fun j hj => (h j hj).2) h

end Sys2Proof

namespace Sys2Proof.Machine

/-- Settles O6: the step runs what the decoder reads at the front of the encoded records, which is the first of them. -/
theorem stepRunsRecordsInOrder : Obligations.StepRunsRecordsInOrder := by
  intro s i records hc hw hfmt hi hrecords hinput
  refine stepRunsTheDecodedInstruction s i _ hc ?_ ?_ ?_ <;> rw [hinput]
  · exact List.append_ne_nil_of_left_ne_nil (encode_ne_nil i hi) _
  · exact validStream_encode (hfmt ▸ hi) (i :: records) (List.forall_mem_cons.mpr ⟨⟨hw, hfmt⟩, hrecords⟩)
  · rw [← hfmt]; exact decode_encode hi hw _

end Sys2Proof.Machine
end

section
/-! What the decoder reads is well-formed and encodes to the bytes it was read from, format by format, so that each byte string
has one meaning (O1, O2), and the bytes of a table word are its instruction's encoding (O8). -/

namespace Sys2Proof

/-- The invalid requests of 30_encoding R62, by their mode byte and the length byte of their mode. -/
theorem badRequest_iff (b0 b3 b5 : Byte) : badRequest b0 b3 b5 = true ↔
    ¬ (b0 = 0x00#8 ∨ b0 = 0x01#8) ∨ (b0 = 0x00#8 ∧ 7 < b3.toNat) ∨ (b0 = 0x01#8 ∧ 7 < b5.toNat) := by
  by_cases h0 : b0 = 0x00#8
  · simp [badRequest, h0, Config.maxCmdPayload]
  · by_cases h1 : b0 = 0x01#8 <;> simp [badRequest, h0, h1, Config.maxCmdPayload]

/-- The two kinds of valid request header (30_encoding R55). -/
theorem not_badRequest_iff (b0 b3 b5 : Byte) : ¬ badRequest b0 b3 b5 = true ↔
    (b0 = 0x00#8 ∧ b3.toNat ≤ 7) ∨ (b0 = 0x01#8 ∧ b5.toNat ≤ 7) := by
  rw [badRequest_iff]
  by_cases h0 : b0 = 0x00#8
  · simp [h0]
  · by_cases h1 : b0 = 0x01#8 <;> simp [h0, h1]

/-- What an `EVT` record was read from (30_encoding R74). -/
theorem decodeEvt_eq_some {bs rest : List Byte} {i : Instr} (h : decodeEvt bs = some (i, rest)) :
    i.wellFormed = true ∧ encode i ++ rest = bs := by
  revert h
  fun_cases decodeEvt bs <;> rintro ⟨⟩
  case case7 idw dlcw dlw dhw _ _ _ _ htake =>
    exact ⟨rfl, by rw [takeWords_eq_some htake]; simp [encode]⟩
  all_goals exact ⟨rfl, rfl⟩

/-- What a request frame was read from: six bytes that are invalid, or a header, its payload and its interval (30_encoding R55,
R62). -/
theorem decodeReq_eq_some {bs rest : List Byte} {i : Instr} (h : decodeReq bs = some (i, rest)) :
    i.wellFormed = true ∧ encode i ++ rest = bs := by
  revert h
  fun_cases decodeReq bs <;> rintro ⟨⟩
  case case1 hbad => exact ⟨hbad, rfl⟩
  case case2 b1 b2 b3 b4 b5 tail payload interval hgood htake =>
    obtain ⟨hlen, hbytes⟩ := takeBody_eq_some htake
    obtain ⟨-, hle⟩ := ((not_badRequest_iff _ _ _).mp hgood).resolve_right fun hmode => absurd hmode.1 (by decide)
    refine ⟨decide_eq_true (hlen ▸ hle), ?_⟩
    simp [encode, hlen, lenByte_of_toNat, hbytes]
  case case4 b0 b1 b2 b3 b4 b5 tail hgood h0 payload interval htake =>
    obtain ⟨hlen, rfl⟩ := takeBody_eq_some htake
    obtain ⟨rfl, hle⟩ := ((not_badRequest_iff _ _ _).mp hgood).resolve_left fun hmode => h0 hmode.1
    refine ⟨decide_eq_true (hlen ▸ hle), ?_⟩
    simp [encode, hlen, lenByte_of_toNat]

/-- What a notification was read from: the container holds nothing above its identifier (30_encoding R63 to R65). -/
theorem decodeNtf_eq_some {bs rest : List Byte} {i : Instr} (h : decodeNtf bs = some (i, rest)) :
    i.wellFormed = true ∧ encode i ++ rest = bs := by
  revert h
  fun_cases decodeNtf bs <;> intro h
  case case1 a b note hid =>
    obtain ⟨⟨app, flag, rest⟩, htake, ⟨⟩⟩ := Option.map_eq_some_iff.mp h
    obtain ⟨hlen, rfl⟩ := takeNote_eq_some htake
    have hback : (((be16 a b).setWidth 11).setWidth 29).setWidth 16 = be16 a b := by
      rw [BitVec.setWidth_setWidth_of_le _ (by decide), BitVec.setWidth_setWidth_eq_self hid]
    exact ⟨decide_eq_true hlen, by simp [encode, ntfBytes, flagByte, hback]⟩
  case case3 a b c d note hid _ =>
    obtain ⟨⟨app, flag, rest⟩, htake, ⟨⟩⟩ := Option.map_eq_some_iff.mp h
    obtain ⟨hlen, rfl⟩ := takeNote_eq_some htake
    have hback : ((be32 a b c d).setWidth 29).setWidth 32 = be32 a b c d := BitVec.setWidth_setWidth_eq_self hid
    exact ⟨decide_eq_true hlen, by simp [encode, ntfBytes, flagByte, hback]⟩
  all_goals cases h

/-- What a tuple of wire words was read from (30_encoding R70, R71). -/
theorem decodeWire_eq_some {bs rest : List Byte} {i : Instr} (h : decodeWire bs = some (i, rest)) :
    i.wellFormed = true ∧ encode i ++ rest = bs := by
  revert h
  fun_cases decodeWire bs <;> rintro ⟨⟩
  case case2 hide htake => exact ⟨hide, by rw [takeWords_eq_some htake]; simp [encode]⟩
  case case3 hide htake =>
    exact ⟨by simpa [Instr.wellFormed] using hide, by rw [takeWords_eq_some htake]; simp [encode]⟩

/-- Settles O1, as `decode_encode` says of each format. -/
theorem decodeReadsBackEveryEncoding : Obligations.DecodeReadsBackEveryEncoding :=
  fun _ rest hw hi => decode_encode hi hw rest

/-- Settles O2, one decoder at a time. -/
theorem decodedBytesAreTheEncoding : Obligations.DecodedBytesAreTheEncoding := by
  intro fmt bs rest i h
  cases fmt with
  | evt =>
    obtain ⟨hw, hbytes⟩ := decodeEvt_eq_some h
    exact ⟨hw, Machine.decodeEvt_format h, hbytes⟩
  | req =>
    obtain ⟨hw, hbytes⟩ := decodeReq_eq_some h
    exact ⟨hw, Machine.decodeReq_format h, hbytes⟩
  | ntf =>
    obtain ⟨hw, hbytes⟩ := decodeNtf_eq_some h
    exact ⟨hw, Machine.decodeNtf_format h, hbytes⟩
  | wire =>
    obtain ⟨hw, hbytes⟩ := decodeWire_eq_some h
    exact ⟨hw, Machine.decodeWire_format h, hbytes⟩
  | internal => cases h

/-- Settles O3: the eight words are evaluated. -/
theorem writtenOutWordsDecode : Obligations.WrittenOutWordsDecode := by
  unfold Obligations.WrittenOutWordsDecode
  decide

/-- The instruction of a table word stands in the bytes that are placed for it, whole and alone (log 5). -/
theorem tableInput_eq_encode {nbits w : Nat} {i : Instr} (h : decodeTableWord nbits w = some i) :
    i.wellFormed = true ∧ i.format ≠ .internal ∧ i.format = tableFormat nbits w ∧ tableInput nbits w = encode i := by
  obtain ⟨⟨i, rest⟩, hd, rfl⟩ := Option.map_eq_some_iff.mp h
  obtain ⟨hw, hfmt, hbytes⟩ := decodedBytesAreTheEncoding _ _ _ _ hd
  refine ⟨hw, Machine.decode_format_ne_internal hd, hfmt, ?_⟩
  simp only [tableInput, hd]
  simp [← hbytes]

end Sys2Proof

namespace Sys2Proof.Machine

/-- Settles O8: a placed table word is a stream of one record. -/
theorem placedTableWordRuns : Obligations.PlacedTableWordRuns := by
  intro s nbits w i hc h
  obtain ⟨hw, hi, hfmt, hinput⟩ := tableInput_eq_encode h
  have hone : (s.withFetchWord nbits w).input = encode i ++ ([].map encode).flatten := by
    simpa [State.withFetchWord, placeTableWord] using hinput
  rw [stepRunsRecordsInOrder (s.withFetchWord nbits w) i [] hc hw hfmt hi (by simp) hone, hfmt]
  rfl

end Sys2Proof.Machine
end

section
/-! A stream whose tail is no record is refused whole, however many valid records stand before it (O4, O60). -/

namespace Sys2Proof

/-- Where nothing is read at the tail of encoded records, no fuel makes them a stream. -/
theorem streamOk_of_undecodable_tail {fmt : Format} (hfmt : fmt ≠ .internal) {tail : List Byte} (hne : tail ≠ [])
    (htail : decode fmt tail = none) (records : List Instr) :
    ∀ fuel, (∀ j ∈ records, j.wellFormed = true ∧ j.format = fmt) →
      streamOk fmt fuel ((records.map encode).flatten ++ tail) = false := by
  induction records with
  | nil =>
    intro fuel _
    obtain ⟨b, bs, rfl⟩ := List.exists_cons_of_ne_nil hne
    cases fuel <;> simp [streamOk, htail]
  | cons j js ih =>
    intro fuel hrecords
    obtain ⟨⟨hw, rfl⟩, hrest⟩ := List.forall_mem_cons.mp hrecords
    have hj : encode j ++ ((js.map encode).flatten ++ tail) ≠ [] :=
      List.append_ne_nil_of_left_ne_nil (encode_ne_nil j hfmt) _
    rw [List.map_cons, List.flatten_cons, List.append_assoc]
    cases fuel with
    | zero =>
      obtain ⟨b, bs, hb⟩ := List.exists_cons_of_ne_nil hj
      rw [hb, streamOk]
    | succ fuel => rw [streamOk_of_decode fuel hj (decode_encode hfmt hw _), ih fuel hrest]

/-- Any operands make an `EVT` record (30_encoding R74). -/
theorem wellFormed_of_evt {i : Instr} (h : i.format = .evt) : i.wellFormed = true := by
  cases i <;> cases h <;> rfl

/-- An op byte 0x00 or 0x08 to 0xFF is not a record (30_encoding R74). -/
theorem decodeEvt_badOp {op : Byte} (hop : op = 0x00#8 ∨ 8 ≤ op.toNat) (rest : List Byte) :
    decodeEvt (op :: rest) = none := by
  have hno : ∀ b : Byte, 1 ≤ b.toNat → b.toNat ≤ 7 → op ≠ b := by
    rintro b hpos hmax rfl
    obtain rfl | hop := hop
    · exact absurd hpos (by decide)
    · omega
  simp [decodeEvt, hno]

/-- Four words take sixteen bytes (30_encoding R74). -/
theorem takeWords_of_length_lt {bs : List Byte} (h : bs.length < 16) : takeWords bs = none := by
  refine Option.eq_none_iff_forall_ne_some.mpr fun ⟨a, b, c, d, rest⟩ htake => ?_
  rw [takeWords_eq_some htake] at h
  simp only [List.length_append, leBytes32_length] at h
  omega

/-- A FEED or a BUS_RX whose operands are cut off is not a record (log 6). -/
theorem decodeEvt_cutOff {op : Byte} {operands : List Byte}
    (h : (op = 0x01#8 ∧ operands = []) ∨ (op = 0x05#8 ∧ operands.length < 16)) :
    decodeEvt (op :: operands) = none := by
  obtain ⟨rfl, rfl⟩ | ⟨rfl, hlen⟩ := h
  · rfl
  · simp [decodeEvt, takeWords_of_length_lt hlen]

end Sys2Proof

namespace Sys2Proof.Machine

/-- The fetch stops on what is no stream, before any record of it is run (30_encoding R74; log 6). -/
theorem fetch_of_not_validStream {s : State} (hc : s.cfg.Admitted) (hi : s.input ≠ [])
    (hv : validStream s.inputFmt s.input = false) : fetch s = .stop .badStream := by
  obtain ⟨hvalid, -⟩ | hstop := fetch_events s hc hi
  · simp [hv] at hvalid
  · exact hstop

/-- A stream of records with a tail that is none is refused at its first step (30_encoding R74). -/
theorem step_of_undecodable_tail {s : State} {records : List Instr} {tail : List Byte} (hc : s.cfg.Admitted)
    (hfmt : s.inputFmt = .evt) (hrecords : ∀ i ∈ records, i.format = .evt) (hne : tail ≠ [])
    (htail : decodeEvt tail = none) (hinput : s.input = (records.map encode).flatten ++ tail) :
    step s = .refused .badStream := by
  refine step_of_fetch_stop (fetch_of_not_validStream hc ?_ ?_) <;> rw [hinput]
  · exact List.append_ne_nil_of_right_ne_nil _ hne
  · rw [hfmt]
    exact streamOk_of_undecodable_tail (fmt := .evt) (by decide) hne htail records _
      fun j hj => ⟨wellFormed_of_evt (hrecords j hj), hrecords j hj⟩

/-- Settles O4: the op byte begins a tail that is no record. -/
theorem badOpByteRefusesTheWholeStream : Obligations.BadOpByteRefusesTheWholeStream := by
  intro s records op rest hc hfmt hrecords hop hinput
  exact step_of_undecodable_tail hc hfmt hrecords (List.cons_ne_nil op rest) (decodeEvt_badOp hop rest) hinput

/-- Settles O60: the record that is cut off begins a tail that is none. -/
theorem cutOffRecordRefusesTheWholeStream : Obligations.CutOffRecordRefusesTheWholeStream := by
  intro s records op operands hc hfmt hrecords hcut hinput
  exact step_of_undecodable_tail hc hfmt hrecords (List.cons_ne_nil op operands) (decodeEvt_cutOff hcut) hinput

end Sys2Proof.Machine
end

section
/-! The request rows: each is the FEED of its frame's bytes in order, and a whole frame fed to an empty buffer is held in it with
one status a byte (O20 to O24). -/

namespace Sys2Proof.Machine

/-- The bytes of a REQ0 row are those of 30_encoding R56. -/
theorem encode_req0 (idc : Half) (payload : List Byte) (interval : Half) :
    encode (.req0 idc payload interval) = req0Bytes idc payload interval := by
  simp [encode, req0Bytes, beBytes16, lenByte]

/-- The bytes of a REQ1 row are those of 30_encoding R57. -/
theorem encode_req1 (idc : Word) (payload : List Byte) (interval : Half) :
    encode (.req1 idc payload interval) = req1Bytes idc payload interval := by
  simp [encode, req1Bytes, beBytes16, beBytes32, lenByte]

theorem exec_req0 (idc : Half) (payload : List Byte) (interval : Half) (s : State) :
    exec (.req0 idc payload interval) s = finish (feedBytes (req0Bytes idc payload interval) s) := by
  rw [← encode_req0]; rfl

theorem exec_req1 (idc : Word) (payload : List Byte) (interval : Half) (s : State) :
    exec (.req1 idc payload interval) s = finish (feedBytes (req1Bytes idc payload interval) s) := by
  rw [← encode_req1]; rfl

theorem exec_reqInvalid (b0 b1 b2 b3 b4 b5 : Byte) (s : State) :
    exec (.reqInvalid b0 b1 b2 b3 b4 b5) s = finish (feedBytes [b0, b1, b2, b3, b4, b5] s) := rfl

/-- FEED operations in order are the FEED of their bytes (30_encoding R77). -/
theorem execAll_map_feed (bs : List Byte) : ∀ s : State, execAll (bs.map .feed) s = finish (feedBytes bs s) := by
  induction bs with
  | nil => exact fun _ => rfl
  | cons b bs ih =>
    intro s
    have hfeed : exec (.feed b) s = finish (feedByte b s) := rfl
    cases hb : feedByte b s with
    | error f => simp [execAll, feedBytes, hfeed, hb, finish]
    | ok t => simpa [execAll, feedBytes, hfeed, hb, finish] using ih t

/-- Settles O20, by `execAll_map_feed` at the bytes of each row. -/
theorem requestRowsFeedEachByte : Obligations.RequestRowsFeedEachByte := by
  refine ⟨fun s idc payload interval => ?_, fun s idc payload interval => ?_, fun s b0 b1 b2 b3 b4 b5 => ?_⟩
  · rw [execAll_map_feed, exec_req0]
  · rw [execAll_map_feed, exec_req1]
  · rw [execAll_map_feed, exec_reqInvalid]

/-- A request row is a run of FEEDs. -/
theorem exec_of_req {i : Instr} (h : i.format = .req) (s : State) : exec i s = finish (feedBytes (encode i) s) := by
  cases i <;> cases h <;> rfl

/-- Settles O21: a run of FEEDs completes, keeps the invariant and touches only the assembler. -/
theorem requestRowsComplete : Obligations.RequestRowsComplete := by
  intro s i h hi
  obtain ⟨t, ht, hinv⟩ := h.feedBytes (encode i)
  exact ⟨t, by rw [exec_of_req hi, finish_next_iff, ht], hinv, feedBytes_frame _ s t ht⟩

/-! A frame fed to an empty buffer. -/

/-- The state `s` with `bs` as the bytes its buffer holds and `rs` as the statuses returned for them. -/
def holding (bs : List Byte) (rs : List FeedStatus) (s : State) : State :=
  { s with
    buf := bs.map some ++ s.buf.drop bs.length
    count := bs.length
    out := s.out ++ rs.map .feedStatus }

theorem holding_nil {s : State} (h : s.count = 0) : holding [] [] s = s := by
  cases s; simp_all [holding]

@[simp] theorem report_holding (r : FeedStatus) (bs : List Byte) (rs : List FeedStatus) (s : State) :
    report r (holding bs rs s) = holding bs (rs ++ [r]) s := by
  simp [holding, report, emit]

/-- While the buffer has room, FEED adds its byte to those held and evaluates them (40_serial_assembler R82). -/
theorem feedByte_holding {s : State} (hr : s.ready = false) (hlen : s.buf.length = s.cfg.ceil) (bs : List Byte) (b : Byte)
    (rs : List FeedStatus) (hroom : bs.length < s.cfg.ceil) :
    feedByte b (holding bs rs s) = evaluate (holding (bs ++ [b]) rs s) := by
  rw [feedByte_accumulate b (holding bs rs s) hr hroom.ne (by simp [holding]; omega)]
  congr 1
  have hset : (bs.map some ++ s.buf.drop bs.length).set bs.length (some b) =
      (bs ++ [b]).map some ++ s.buf.drop (bs ++ [b]).length := by
    rw [List.drop_eq_getElem_cons (by omega), List.set_append_right _ _ (by simp), List.length_map, Nat.sub_self,
      List.set_cons_zero]
    simp
  simp [holding, hset]

/-- The bytes begin a frame and are not all of it, as far as six bytes or more can tell (40_serial_assembler R83, R84). -/
def Unfinished (bs : List Byte) : Prop :=
  6 ≤ bs.length → ∃ total, frameTotal (bs.map some) = some total ∧ bs.length < total

/-- From the sixth byte on, the length of the frame that held bytes begin does not depend on what comes after them. -/
theorem frameTotal_append {bs : List Byte} (h : 6 ≤ bs.length) (rest : Cells) :
    frameTotal (bs.map some ++ rest) = frameTotal (bs.map some) := by
  have hbyte : ∀ k, k < 6 → byteAt (bs.map some ++ rest) k = byteAt (bs.map some) k := fun k hk => by
    simp [byteAt, List.getElem?_append_left, show k < bs.length by omega]
  exact frameTotal_congr _ _ (hbyte 0 (by decide)) (hbyte 3 (by decide)) (hbyte 5 (by decide))

/-- Fewer bytes of an unfinished frame are unfinished. -/
theorem Unfinished.of_append {bs cs : List Byte} (h : Unfinished (bs ++ cs)) : Unfinished bs := by
  intro hsix
  obtain ⟨total, htotal, hlt⟩ := h (by simp; omega)
  rw [List.map_append, frameTotal_append hsix] at htotal
  exact ⟨total, htotal, by simp at hlt; omega⟩

/-- What the evaluation of held bytes looks at. -/
theorem evaluate_holding {s : State} (bs : List Byte) (rs : List FeedStatus) (hsix : 6 ≤ bs.length) :
    (frameTotal (bs.map some) = none ∧ evaluate (holding bs rs s) = .ok (rejectFrame (holding bs rs s))) ∨
    ∃ total, frameTotal (bs.map some) = some total ∧ evaluate (holding bs rs s) =
      .ok (if bs.length = total then report .complete { holding bs rs s with ready := true }
        else report .incomplete (holding bs rs s)) := by
  have heval := evaluate_of_held (s := holding bs rs s) hsix fun k hk => by
    rw [holding, byteAt_map_append _ _ _ hk, List.getElem?_eq_getElem hk]; rfl
  rwa [show (holding bs rs s).buf = bs.map some ++ s.buf.drop bs.length from rfl, frameTotal_append hsix] at heval

/-- The bytes of an unfinished frame are evaluated to Incomplete and stay (40_serial_assembler R83). -/
theorem evaluate_of_unfinished {s : State} {bs : List Byte} (h : Unfinished bs) (rs : List FeedStatus) :
    evaluate (holding bs rs s) = .ok (holding bs (rs ++ [.incomplete]) s) := by
  by_cases hsix : 6 ≤ bs.length
  · obtain ⟨total, htotal, hlt⟩ := h hsix
    obtain ⟨hnone, -⟩ | ⟨total', htotal', heval⟩ := evaluate_holding (s := s) bs rs hsix
    · cases htotal.symm.trans hnone
    · cases htotal.symm.trans htotal'
      rw [heval, if_neg hlt.ne, report_holding]
  · rw [evaluate_short _ (Nat.not_le.mp hsix), report_holding]

section
variable {s : State} (hr : s.ready = false) (hlen : s.buf.length = s.cfg.ceil) (hempty : s.count = 0)
include hr hlen hempty

/-- The FEED of an unfinished frame to an empty buffer returns Incomplete for each byte and holds them all
(40_serial_assembler R82, R83). -/
theorem feedBytes_of_unfinished (bs : List Byte) (h : Unfinished bs) (hroom : bs.length ≤ s.cfg.ceil) :
    feedBytes bs s = .ok (holding bs (List.replicate bs.length .incomplete) s) := by
  induction bs using List.reverseRecOn with
  | nil => rw [List.length_nil, List.replicate_zero, holding_nil hempty]; rfl
  | append_singleton bs b ih =>
    rw [List.length_append, List.length_singleton] at hroom ⊢
    rw [feedBytes_append bs [b] _ _ (ih h.of_append (by omega)), feedBytes_singleton,
      feedByte_holding hr hlen bs b _ hroom, evaluate_of_unfinished h, List.replicate_succ']

/-- The FEED of one byte more evaluates them all. -/
theorem feedBytes_last (bs : List Byte) (b : Byte) (h : Unfinished bs) (hroom : bs.length < s.cfg.ceil) :
    feedBytes (bs ++ [b]) s = evaluate (holding (bs ++ [b]) (List.replicate bs.length .incomplete) s) := by
  rw [feedBytes_append bs [b] _ _ (feedBytes_of_unfinished hr hlen hempty bs h hroom.le), feedBytes_singleton,
    feedByte_holding hr hlen bs b _ hroom]

/-- A whole frame fed to an empty buffer is held in it: Incomplete for every byte but the last, then Complete
(40_serial_assembler R82, R83, R89). -/
theorem feedBytes_of_frame (bs : List Byte) (hframe : frameTotal (bs.map some) = some bs.length)
    (hroom : bs.length ≤ s.cfg.ceil) :
    feedBytes bs s = .ok { s with
      buf := bs.map some ++ s.buf.drop bs.length
      count := bs.length
      ready := true
      out := s.out ++ statuses (bs.length - 1) .complete } := by
  have hsix := (frameTotal_bounds _ _ hframe).1
  obtain ⟨init, last, rfl⟩ := (List.eq_nil_or_concat' bs).resolve_left fun hnil => by simp [hnil] at hsix
  rw [List.length_append, List.length_singleton] at hsix hroom
  have hinit : Unfinished init := fun h => ⟨_, by rw [← hframe, List.map_append, frameTotal_append h], by simp⟩
  rw [feedBytes_last hr hlen hempty init last hinit hroom]
  obtain ⟨hnone, -⟩ | ⟨total, htotal, heval⟩ := evaluate_holding (s := s) (init ++ [last]) _ (by simpa using hsix)
  · cases hframe.symm.trans hnone
  · rw [heval, if_pos (Option.some.inj (hframe.symm.trans htotal))]
    simp [holding, report, emit, statuses]

/-- A byte that makes the bytes invalid empties the buffer: Incomplete for every byte before it, then Invalid
(40_serial_assembler R84, R88). -/
theorem feedBytes_of_invalid (bs : List Byte) (b : Byte) (h : Unfinished bs) (hsix : 6 ≤ bs.length + 1)
    (hbad : frameTotal ((bs ++ [b]).map some) = none) (hroom : bs.length < s.cfg.ceil) :
    feedBytes (bs ++ [b]) s = .ok { s with
      buf := (bs ++ [b]).map some ++ s.buf.drop (bs.length + 1)
      count := 0
      ready := false
      out := s.out ++ statuses bs.length .invalid } := by
  rw [feedBytes_last hr hlen hempty bs b h hroom]
  obtain ⟨-, heval⟩ | ⟨total, htotal, -⟩ := evaluate_holding (s := s) (bs ++ [b]) _ (by simpa using hsix)
  · rw [heval]
    simp [holding, rejectFrame, resetBuffer, report, emit, statuses]
  · cases hbad.symm.trans htotal

end

@[simp] theorem length_req0Bytes (idc : Half) (payload : List Byte) (interval : Half) :
    (req0Bytes idc payload interval).length = 6 + payload.length := by
  simp [req0Bytes]; omega

@[simp] theorem length_req1Bytes (idc : Word) (payload : List Byte) (interval : Half) :
    (req1Bytes idc payload interval).length = 8 + payload.length := by
  simp [req1Bytes]; omega

/-- A REQ0 frame is as long as its length byte says (30_encoding R61). -/
theorem frameTotal_req0Bytes (idc : Half) {payload : List Byte} (interval : Half) (h : payload.length ≤ 7) :
    frameTotal ((req0Bytes idc payload interval).map some) = some (6 + payload.length) := by
  have hn : (BitVec.ofNat 8 payload.length).toNat = payload.length := lenByte_toNat _ (by omega)
  simp only [frameTotal, req0Bytes, byteAt, Config.maxCmdPayload]
  simp [hn, h]

/-- A REQ1 frame is as long as its length byte says (30_encoding R61). -/
theorem frameTotal_req1Bytes (idc : Word) {payload : List Byte} (interval : Half) (h : payload.length ≤ 7) :
    frameTotal ((req1Bytes idc payload interval).map some) = some (8 + payload.length) := by
  have hn : (BitVec.ofNat 8 payload.length).toNat = payload.length := lenByte_toNat _ (by omega)
  simp only [frameTotal, req1Bytes, byteAt, Config.maxCmdPayload]
  simp [hn, h]

/-- Any request frame fits the buffer of an admitted block (00_scope R7). -/
theorem BlockInv.room {s : State} (h : BlockInv s) {n : Nat} (hn : n ≤ 15) : n ≤ s.cfg.ceil := hn.trans h.ceil

/-- Settles O22: a REQ0 frame is as long as its length byte says. -/
theorem req0FillsTheEmptyBuffer : Obligations.Req0FillsTheEmptyBuffer := by
  intro s idc payload interval h hempty hr hp
  have hfeed := feedBytes_of_frame hr h.assembler.bufLength hempty (req0Bytes idc payload interval)
    (by rw [frameTotal_req0Bytes idc interval hp, length_req0Bytes]) (h.room (by simp; omega))
  rw [exec_req0, hfeed, length_req0Bytes, show 6 + payload.length - 1 = 5 + payload.length by omega]
  rfl

/-- Settles O23: a REQ1 frame is as long as its length byte says. -/
theorem req1FillsTheEmptyBuffer : Obligations.Req1FillsTheEmptyBuffer := by
  intro s idc payload interval h hempty hr hp
  have hfeed := feedBytes_of_frame hr h.assembler.bufLength hempty (req1Bytes idc payload interval)
    (by rw [frameTotal_req1Bytes idc interval hp, length_req1Bytes]) (h.room (by simp; omega))
  rw [exec_req1, hfeed, length_req1Bytes, show 8 + payload.length - 1 = 7 + payload.length by omega]
  rfl

/-- Settles O24: five bytes are not evaluated, and the sixth shows that the header is invalid. -/
theorem invalidRequestLeavesTheBufferEmpty : Obligations.InvalidRequestLeavesTheBufferEmpty := by
  intro s b0 b1 b2 b3 b4 b5 h hempty hr hbad
  have hnone : frameTotal ([b0, b1, b2, b3, b4, b5].map some) = none := by
    rw [frameTotal_of_bytes _ b0 b3 b5 rfl rfl rfl, if_pos ((badRequest_iff b0 b3 b5).mpr hbad)]
  have hfeed := feedBytes_of_invalid hr h.assembler.bufLength hempty [b0, b1, b2, b3, b4] b5
    (fun hsix => absurd hsix (Nat.not_le.mpr (Nat.lt_succ_self 5))) le_rfl hnone (h.room (n := 6) (by decide))
  exact (finish_next_iff _ _).mpr hfeed

end Sys2Proof.Machine
end

section
/-! DISPATCH of a frame whose bytes stand in the buffer: which fields it reads, and the one send of a single-shot command
(O30). -/

namespace Sys2Proof.Machine

/-- The part of a request frame after its header is read from the bytes that stand there (30_encoding R55, R59, R60). -/
theorem readBody_append (ext : Bool) (id : Ident) (header payload : List Byte) (hi lo : Byte) (rest : Cells)
    (h : payload.length ≤ 7) :
    readBody ext id (BitVec.ofNat 8 payload.length) header.length ((header ++ payload ++ [hi, lo]).map some ++ rest) =
      .ok ⟨ext, id, payload, be16 hi lo⟩ := by
  have hn : (BitVec.ofNat 8 payload.length).toNat = payload.length := lenByte_toNat _ (by omega)
  have hcells : (header ++ payload ++ [hi, lo]).map some ++ rest =
      header.map some ++ (payload.map some ++ (some hi :: some lo :: rest)) := by simp
  have hpayload := readCells_append .buf header payload (some hi :: some lo :: rest)
  have hhi : byteAt (header.map some ++ (payload.map some ++ (some hi :: some lo :: rest)))
      (header.length + payload.length) = some hi := by
    simp [byteAt]
  have hlo : byteAt (header.map some ++ (payload.map some ++ (some hi :: some lo :: rest)))
      (header.length + payload.length + 1) = some lo := by
    rw [← hcells, byteAt_map_append _ _ _ (by simp; omega), List.getElem?_append_right (by simp)]
    simp
  simp only [readBody, hn, hcells, if_neg (Nat.not_lt.mpr h), hpayload, readCell_of_byteAt hhi, readCell_of_byteAt hlo,
    bind_ok]

/-- The fields of a REQ0 frame that stands in the buffer (41_command_dispatch R92). -/
theorem readRequest_req0Bytes (idc : Half) {payload : List Byte} (interval : Half) (rest : Cells)
    (h : payload.length ≤ 7) :
    readRequest ((req0Bytes idc payload interval).map some ++ rest) = .ok ⟨false, stdIdent idc, payload, interval⟩ := by
  have hbody := readBody_append false (stdIdent idc)
    [0x00#8, idc.extractLsb' 8 8, idc.extractLsb' 0 8, BitVec.ofNat 8 payload.length] payload
    (interval.extractLsb' 8 8) (interval.extractLsb' 0 8) rest h
  rw [be16_beBytes16] at hbody
  rw [← hbody]
  simp [readRequest, req0Bytes, readCell]

/-- The fields of a REQ1 frame that stands in the buffer (41_command_dispatch R92). -/
theorem readRequest_req1Bytes (idc : Word) {payload : List Byte} (interval : Half) (rest : Cells)
    (h : payload.length ≤ 7) :
    readRequest ((req1Bytes idc payload interval).map some ++ rest) = .ok ⟨true, extIdent idc, payload, interval⟩ := by
  have hbody := readBody_append true (extIdent idc)
    [0x01#8, idc.extractLsb' 24 8, idc.extractLsb' 16 8, idc.extractLsb' 8 8, idc.extractLsb' 0 8,
      BitVec.ofNat 8 payload.length] payload (interval.extractLsb' 8 8) (interval.extractLsb' 0 8) rest h
  rw [be16_beBytes16] at hbody
  rw [← hbody]
  simp [readRequest, req1Bytes, readCell]

/-- The block's draw from the script is the statements' (30_encoding R74). -/
theorem nextResp_eq_drawnResp (s : State) : nextResp s = drawnResp s := by
  unfold nextResp drawnResp
  cases s.script <;> rfl

/-- DISPATCH of a request with interval 0 (41_command_dispatch R94): STOP, then one send. -/
theorem runRequest_singleShot (ext : Bool) (id : Ident) (payload : List Byte) (s : State) :
    runRequest ⟨ext, id, payload, 0⟩ s = afterSingleShot ext id payload s := by
  rw [runRequest, if_pos rfl]
  simp only [afterSingleShot, ← nextResp_eq_drawnResp, stoppedTimer]
  cases h : s.cfg.timerModel <;>
    simp [singleShot, resetBuffer, sendBusFrame, emit, nextResp, emitTimer, applyTimer, h]

/-- DISPATCH runs the request it reads. -/
theorem exec_dispatch_of_readRequest {s : State} {r : Request} (hready : s.ready = true)
    (hr : readRequest s.buf = .ok r) : exec .dispatch s = .next (runRequest r s) :=
  (finish_next_iff _ _).mpr ((dispatch_eq_ok s _).mpr ⟨hready, r, hr, rfl⟩)

/-- A single-shot command that an operation leaves in the buffer is sent by the DISPATCH after it (41_command_dispatch R94). -/
theorem execAll_then_singleShot {i : Instr} {s t : State} {ext : Bool} {id : Ident} {payload : List Byte}
    (hi : exec i s = .next t) (hready : t.ready = true) (hr : readRequest t.buf = .ok ⟨ext, id, payload, 0⟩) :
    execAll [i, .dispatch] s = .next (afterSingleShot ext id payload t) := by
  simp only [execAll, hi, exec_dispatch_of_readRequest hready hr, runRequest_singleShot]

/-- Settles O30: the row fills the buffer with its frame, and DISPATCH reads the frame back and sends it once. -/
theorem singleShotCommandSendsOneFrame : Obligations.SingleShotCommandSendsOneFrame := by
  refine ⟨fun s idc payload h hempty hr hp => ?_, fun s idc payload h hempty hr hp => ?_⟩
  · exact ⟨_, execAll_then_singleShot (req0FillsTheEmptyBuffer s idc payload 0 h hempty hr hp) rfl
      (readRequest_req0Bytes idc 0 _ hp), rfl, rfl, rfl, rfl, rfl⟩
  · exact ⟨_, execAll_then_singleShot (req1FillsTheEmptyBuffer s idc payload 0 h hempty hr hp) rfl
      (readRequest_req1Bytes idc 0 _ hp), rfl, rfl, rfl, rfl, rfl⟩

end Sys2Proof.Machine
end

section
/-! The rows of the two bus-side formats: a notification row is the emission of its bytes, and a wire row is BUS_RX of its words
(O48, O51). Also the refusal of MS under `EXTERNAL` (O36). -/

namespace Sys2Proof

/-- The bytes of a standard notification are those of 30_encoding R64. -/
theorem ntfBytes_std (id : Ident) (app : List Byte) (flag : Bool) :
    ntfBytes false id app flag = Machine.ntf0Bytes id app flag := by
  simp [ntfBytes, Machine.ntf0Bytes, beBytes16, flagByte, lenByte, BitVec.extractLsb'_setWidth_of_le]

/-- The bytes of an extended notification are those of 30_encoding R65. -/
theorem ntfBytes_ext (id : Ident) (app : List Byte) (flag : Bool) :
    ntfBytes true id app flag = Machine.ntf1Bytes id app flag := by
  simp [ntfBytes, Machine.ntf1Bytes, beBytes32, flagByte, lenByte, BitVec.extractLsb'_setWidth_of_le]

end Sys2Proof

namespace Sys2Proof.Machine

/-- Settles O51: the bytes emitted are those of 30_encoding R64 and R65. -/
theorem notificationRowsEmitTheirFrame : Obligations.NotificationRowsEmitTheirFrame := by
  refine ⟨fun s id app flag => ?_, fun s id app flag => ?_⟩
  · rw [← ntfBytes_std]; rfl
  · rw [← ntfBytes_ext]; rfl

/-- Settles O36, by `execMs_external`. -/
theorem msIsRefusedUnderExternal : Obligations.MsIsRefusedUnderExternal := fun _ h => execMs_external h

/-- A frame whose length code is 0 has no bytes and is dropped (45_inbound_processor R132). -/
theorem busReceive_of_empty {w : Wire} (h : w.dlcw.extractLsb' 0 4 = 0) (s : State) : busReceive w s = .ok s := by
  refine relay_empty _ s (List.eq_nil_of_length_eq_zero ?_)
  rw [decodeFrame_length, wireLength, h]
  rfl

/-- The state after a notified frame is that of the statements (45_inbound_processor R131). -/
theorem afterNotify_eq_afterRelay (ext : Bool) (id : Ident) (app : List Byte) (sq : Byte) (r : CheckResult) (s : State) :
    afterNotify ⟨ext, id, app ++ [sq]⟩ sq r s = afterRelay ext id app sq (decide (r = .suspectedReplay)) s := by
  cases ext <;> simp [afterNotify, afterRelay, notifyHost, emit, track, ntfBytes_std, ntfBytes_ext]

/-- Any other frame is notified, with the flag set exactly when it replays the tracked one (45_inbound_processor R133 to R135;
44_replay_guard R125, R126). -/
theorem busReceive_of_frame {w : Wire} {s : State} {ext : Bool} {id : Ident} {app : List Byte} {sq : Byte} (h : Tracked s)
    (hw : decodeFrame s.cfg.idWordLayout w = ⟨ext, id, app ++ [sq]⟩) :
    ∃ flag : Bool, (flag = true ↔ Replays id sq s) ∧ busReceive w s = .ok (afterRelay ext id app sq flag s) := by
  obtain ⟨r, hr⟩ := check_completes id sq s h
  obtain ⟨-, hreplay⟩ := check_cases id sq s r _ hr
  refine ⟨decide (r = .suspectedReplay), by simpa [Replays] using hreplay, ?_⟩
  rw [busReceive, hw, relay_of_check (List.getLast?_concat ..) hr, afterNotify_eq_afterRelay]

/-- A wire row is the arrival of its words on `bus_rx` (log 3). -/
theorem exec_wireRow {i : Instr} {idw dlcw dlw dhw : Word} (hi : i = .wireStd idw dlcw dlw dhw ∨ i = .wireExt idw dlcw dlw dhw)
    (s : State) : exec i s = finish (busReceive ⟨idw, dlcw, dlw, dhw⟩ s) := by
  obtain rfl | rfl := hi <;> rfl

/-- Settles O48, by what BUS_RX does with an empty and with any other frame. -/
theorem wireRowsRelayTheirFrame : Obligations.WireRowsRelayTheirFrame := by
  intro s idw dlcw dlw dhw i hi
  refine ⟨fun hempty => ?_, fun ext id app sq htracked hw => ?_⟩
  · rw [exec_wireRow hi, busReceive_of_empty hempty]; rfl
  · obtain ⟨flag, hflag, hrelay⟩ := busReceive_of_frame htracked hw
    exact ⟨flag, hflag, by rw [exec_wireRow hi, hrelay]; rfl⟩

end Sys2Proof.Machine
end

section
/-! One FEED: each case of 40_serial_assembler R81 as the whole next state (O14 to O17), and what a FEED leaves alone (O18,
O19). -/

namespace Sys2Proof.Machine

/-- The instruction FEED goes on exactly where the assembler's operation answers a state. -/
theorem exec_feed_eq_next_iff (b : Byte) (s t : State) : exec (.feed b) s = .next t ↔ feedByte b s = .ok t :=
  finish_next_iff _ _

/-- Settles O14, by `feedByte_drop`. -/
theorem feedWhileReadyDrops : Obligations.FeedWhileReadyDrops := by
  intro s b hr hw
  exact (exec_feed_eq_next_iff b s _).mpr (feedByte_drop b s hr hw)

/-- Settles O15: below the ceiling there is room for the byte in the array, so `feedByte_append` stores it. -/
theorem feedWhileReadyAppends : Obligations.FeedWhileReadyAppends := by
  intro s b hr hw hlen hc
  exact (exec_feed_eq_next_iff b s _).mpr (feedByte_append b s hr hw hc.ne (hlen ▸ hc))

/-- Settles O16, by `feedByte_ceiling`. -/
theorem feedAtTheCeilingResets : Obligations.FeedAtTheCeilingResets := by
  intro s b hc hd
  exact (exec_feed_eq_next_iff b s _).mpr (feedByte_ceiling b s hc hd)

/-- What a cell inside the array holds. -/
theorem byteAt_of_getElem? {cells : Cells} {k : Nat} {v : Option Byte} (h : cells[k]? = some v) : byteAt cells k = v := by
  simp [byteAt, h]

/-! Accumulating: the three answers of the evaluation of six or more bytes (40_serial_assembler R83, R84). -/

section
variable {s : State} {b0 b3 b5 : Byte} (hsix : 6 ≤ s.count) (h0 : byteAt s.buf 0 = some b0) (h3 : byteAt s.buf 3 = some b3)
  (h5 : byteAt s.buf 5 = some b5)
include hsix h0 h3 h5

/-- An invalid mode, or a length over 7 at its mode's place, empties the buffer. -/
theorem evaluate_invalid
    (hbad : ¬ (b0 = 0x00#8 ∨ b0 = 0x01#8) ∨ (b0 = 0x00#8 ∧ 7 < b3.toNat) ∨ (b0 = 0x01#8 ∧ 7 < b5.toNat)) :
    evaluate s = .ok (rejectFrame s) := by
  rw [evaluate_of_bytes s b0 b3 b5 hsix h0 h3 h5, if_pos ((badRequest_iff b0 b3 b5).mpr hbad)]

/-- Of a valid header the frame's length decides: 6 or 8 bytes beside the payload, by the mode. -/
theorem evaluate_valid {total : Nat}
    (hgood : (b0 = 0x00#8 ∧ b3.toNat ≤ 7 ∧ total = 6 + b3.toNat) ∨ (b0 = 0x01#8 ∧ b5.toNat ≤ 7 ∧ total = 8 + b5.toNat)) :
    evaluate s =
      .ok (if s.count = total then report .complete { s with ready := true } else report .incomplete s) := by
  have hvalid : ¬ badRequest b0 b3 b5 = true :=
    (not_badRequest_iff b0 b3 b5).mpr (hgood.imp (fun h => ⟨h.1, h.2.1⟩) (fun h => ⟨h.1, h.2.1⟩))
  have htotal : (if b0 = 0x00#8 then 6 + b3.toNat else 8 + b5.toNat) = total := by
    obtain ⟨rfl, -, rfl⟩ | ⟨rfl, -, rfl⟩ := hgood <;> rfl
  rw [evaluate_of_bytes s b0 b3 b5 hsix h0 h3 h5, if_neg hvalid, htotal]

end

/-- Settles O17: FEED evaluates what it holds with the new byte, which too few bytes, an invalid header or the frame's length
decide. -/
theorem feedWhileAccumulating : Obligations.FeedWhileAccumulating := by
  intro s b hr hlen hc
  have hfeed := feedByte_accumulate b s hr hc.ne (hlen ▸ hc)
  simp only [exec_feed_eq_next_iff, hfeed]
  refine ⟨fun hshort => evaluate_short _ hshort, fun b0 b3 b5 hsix h0 h3 h5 => ?_⟩
  replace h0 := byteAt_of_getElem? h0
  replace h3 := byteAt_of_getElem? h3
  replace h5 := byteAt_of_getElem? h5
  refine ⟨fun hbad => evaluate_invalid hsix h0 h3 h5 hbad, fun hlast => ?_, fun hmore => ?_⟩
  · rw [evaluate_valid (total := s.count + 1) hsix h0 h3 h5 hlast, if_pos rfl]; rfl
  · obtain ⟨hm, hl, hne⟩ | ⟨hm, hl, hne⟩ := hmore
    · rw [evaluate_valid hsix h0 h3 h5 (.inl ⟨hm, hl, rfl⟩), if_neg hne]; rfl
    · rw [evaluate_valid hsix h0 h3 h5 (.inr ⟨hm, hl, rfl⟩), if_neg hne]; rfl

/-! What a FEED leaves alone. -/

/-- No FEED writes a cell but the one at `count`. -/
theorem feedByte_getElem?_of_ne {b : Byte} {s t : State} (h : feedByte b s = .ok t) {k : Nat} (hk : k ≠ s.count) :
    t.buf[k]? = s.buf[k]? := by
  obtain ⟨hsame | hset, -⟩ := feedByte_frame b s t h
  · rw [hsame]
  · rw [hset, List.getElem?_set_ne hk.symm]

/-- Nor does a FEED change the length of the frame that six or more bytes begin. -/
theorem feedByte_frameTotal {b : Byte} {s t : State} (h : feedByte b s = .ok t) (hsix : 6 ≤ s.count) :
    frameTotal t.buf = frameTotal s.buf := by
  obtain ⟨hsame | hset, -⟩ := feedByte_frame b s t h
  · rw [hsame]
  · rw [hset, frameTotal_set _ _ _ hsix]

/-- Settles O18: a state of the invariant has room and holds the bytes read, so FEED completes; its frame says the rest. -/
theorem feedCompletesAndWritesOnlyTheAssembler : Obligations.FeedCompletesAndWritesOnlyTheAssembler := by
  intro s b hinv
  obtain ⟨t, ht, -⟩ := hinv.assembler.feedByte b
  obtain ⟨-, r, hframe⟩ := feedByte_frame b s t ht
  exact ⟨t, r, (exec_feed_eq_next_iff b s t).mpr ht, hframe, fun k hk => feedByte_getElem?_of_ne ht hk⟩

/-- Settles O19: while a frame waits, the one cell a FEED may write lies beyond it. Even the FEED that empties the buffer leaves
the bytes, so that the frame still waits afterwards is not used. -/
theorem feedKeepsTheWaitingFrame : Obligations.FeedKeepsTheWaitingFrame := by
  intro s t b total hinv hready htotal hexec _
  have hfeed := (exec_feed_eq_next_iff b s t).mp hexec
  obtain ⟨total', htotal', hsix, hle, -⟩ := hinv.assembler.complete hready
  obtain rfl : total' = total := Option.some.inj (htotal'.symm.trans htotal)
  exact ⟨(feedByte_frameTotal hfeed hsix).trans htotal, fun k hk => feedByte_getElem?_of_ne hfeed (by omega)⟩

end Sys2Proof.Machine
end

section
/-! DISPATCH on its own (O26 to O29): the fields of a frame that stands in the buffer decide whether it is sent once or armed,
and a frame with a broken header faults. -/

namespace Sys2Proof.Machine

/-- DISPATCH of a request with another interval (41_command_dispatch R95): the frame is stored and the timer armed. -/
theorem runRequest_armRepeat (ext : Bool) (id : Ident) (payload : List Byte) {interval : Half} (s : State)
    (h : interval ≠ 0) : runRequest ⟨ext, id, payload, interval⟩ s = afterRepeat ext id payload interval s := by
  rw [runRequest, if_neg h]
  simp only [armRepeat, afterRepeat, writePrefix, resetBuffer, List.length_append, List.length_singleton]
  cases hm : s.cfg.timerModel with
  | external => exact emitTimer_external _ _ hm
  | internalMs => exact emitTimer_arm_internal _ _ hm

/-- DISPATCH of a REQ0 frame that waits in the buffer runs the request of its fields. -/
theorem exec_dispatch_of_req0Bytes {s : State} {idc : Half} {payload : List Byte} {interval : Half} (hready : s.ready = true)
    (hlen : payload.length ≤ 7) (h : HoldsFrame s (req0Bytes idc payload interval)) :
    exec .dispatch s = .next (runRequest ⟨false, stdIdent idc, payload, interval⟩ s) := by
  obtain ⟨rest, hbuf⟩ := h
  exact exec_dispatch_of_readRequest hready (hbuf ▸ readRequest_req0Bytes idc interval rest hlen)

/-- DISPATCH of a REQ1 frame that waits in the buffer runs the request of its fields. -/
theorem exec_dispatch_of_req1Bytes {s : State} {idc : Word} {payload : List Byte} {interval : Half} (hready : s.ready = true)
    (hlen : payload.length ≤ 7) (h : HoldsFrame s (req1Bytes idc payload interval)) :
    exec .dispatch s = .next (runRequest ⟨true, extIdent idc, payload, interval⟩ s) := by
  obtain ⟨rest, hbuf⟩ := h
  exact exec_dispatch_of_readRequest hready (hbuf ▸ readRequest_req1Bytes idc interval rest hlen)

/-- Settles O26: DISPATCH reads the frame's fields, and with interval 0 it sends once. -/
theorem dispatchSendsASingleShotOnce : Obligations.DispatchSendsASingleShotOnce := by
  refine ⟨fun s idc payload hready hlen h => ?_, fun s idc payload hready hlen h => ?_⟩
  · rw [exec_dispatch_of_req0Bytes hready hlen h, runRequest_singleShot, stdIdent]
  · rw [exec_dispatch_of_req1Bytes hready hlen h, runRequest_singleShot, extIdent]

/-- Settles O27: DISPATCH reads the frame's fields, and with a nonzero interval it stores and arms. -/
theorem dispatchArmsARepeat : Obligations.DispatchArmsARepeat := by
  refine ⟨fun s idc payload interval hready hlen hi h => ?_, fun s idc payload interval hready hlen hi h => ?_⟩
  · rw [exec_dispatch_of_req0Bytes hready hlen h, runRequest_armRepeat _ _ _ _ hi, stdIdent]
  · rw [exec_dispatch_of_req1Bytes hready hlen h, runRequest_armRepeat _ _ _ _ hi, extIdent]

/-- Settles O28: a waiting frame is held whole, so DISPATCH completes, and whichever way it ends it writes the same fields. -/
theorem dispatchCompletesWhenAFrameWaits : Obligations.DispatchCompletesWhenAFrameWaits := by
  intro s hinv hready
  obtain ⟨t, ht, -⟩ := hinv.dispatch hready
  obtain ⟨-, r, -, rfl⟩ := (dispatch_eq_ok s t).mp ht
  exact ⟨_, (finish_next_iff _ _).mpr ht, runRequest_fields r s⟩

/-! The two faults of a frame that breaks the invariant. -/

/-- A length byte above 7 is a fault and is not clamped, wherever it stands (41_command_dispatch R98). -/
theorem readBody_of_long {len : Byte} (ext : Bool) (id : Ident) (hdr : Nat) (c : Cells) (h : 7 < len.toNat) :
    readBody ext id len hdr c = .error .dispatchLength := if_pos h

/-- A request that cannot be read makes DISPATCH fault as its read does. -/
theorem exec_dispatch_of_readRequest_error {s : State} {f : Fault} (hready : s.ready = true)
    (hr : readRequest s.buf = .error f) : exec .dispatch s = .fault f := by
  refine (finish_fault_iff _ _).mpr ?_
  rw [dispatch, if_pos hready, hr, bind_error]

section
variable {b0 b1 b2 b3 b4 b5 : Byte} {rest : Cells}

/-- No field but the mode byte is read of a frame of neither mode (41_command_dispatch R98). -/
theorem readRequest_of_badMode (h : ¬ (b0 = 0x00#8 ∨ b0 = 0x01#8)) :
    readRequest ([b0, b1, b2, b3, b4, b5].map some ++ rest) = .error .dispatchMode := by
  obtain ⟨h0, h1⟩ := not_or.mp h
  simp [readRequest, readCell, h0, h1]

/-- The length byte stands at position 3 in mode 0 and at position 5 in mode 1 (30_encoding R56, R57). -/
theorem readRequest_of_badLength (h : (b0 = 0x00#8 ∧ 7 < b3.toNat) ∨ (b0 = 0x01#8 ∧ 7 < b5.toNat)) :
    readRequest ([b0, b1, b2, b3, b4, b5].map some ++ rest) = .error .dispatchLength := by
  obtain ⟨rfl, hl⟩ | ⟨rfl, hl⟩ := h
  · simp [readRequest, readCell, readBody_of_long _ _ _ _ hl]
  · simp [readRequest, readCell, readBody_of_long _ _ _ _ hl]

end

/-- Settles O29: the read of the request faults, on the mode byte or on the length byte at its mode's place. -/
theorem dispatchFaultsOnABrokenFrame : Obligations.DispatchFaultsOnABrokenFrame := by
  rintro s b0 b1 b2 b3 b4 b5 hready ⟨rest, hbuf⟩
  refine ⟨fun hmode => exec_dispatch_of_readRequest_error hready ?_,
    fun hlength => exec_dispatch_of_readRequest_error hready ?_⟩
  · exact hbuf ▸ readRequest_of_badMode hmode
  · exact hbuf ▸ readRequest_of_badLength hlength

end Sys2Proof.Machine
end

section
/-! One tick of the stored frame, which TICK runs under `EXTERNAL` and the last MS of a period under `INTERNAL_MS` (O31, O32, O34,
O37, O59), and STOP, after which a tick does nothing (O35). -/

namespace Sys2Proof.Machine

/-! The stored frame. -/

/-- Cells whose first `n` hold a byte are those bytes, and the cells after them. -/
theorem exists_eq_map_append_of_held {cells : Cells} {n : Nat} (h : ∀ k, k < n → (byteAt cells k).isSome = true) :
    ∃ bs : List Byte, bs.length = n ∧ cells = bs.map some ++ cells.drop n := by
  obtain ⟨bs, hbs⟩ := readCells_of_held .repData cells n 0 (by simpa using h)
  obtain ⟨hlen, hbyte⟩ := (readCells_eq_ok _ _ _ _ _).mp hbs
  refine ⟨bs, hlen, ?_⟩
  have htake : cells.take n = bs.map some := by
    refine List.ext_getElem? fun k => ?_
    by_cases hk : k < n
    · have hb : byteAt cells k = bs[k]? := by simpa using hbyte k hk
      have hin : k < cells.length := lt_length_of_byteAt (h k hk)
      have hkbs : k < bs.length := hlen ▸ hk
      simpa [hk, hin, hkbs, byteAt] using hb
    · rw [List.getElem?_eq_none (by simp; omega), List.getElem?_eq_none (by simp; omega)]
  rw [← htake, List.take_append_drop]

/-- An Armed block stores a frame: leading bytes, one trailing byte, and the cells after it (10_state R23). -/
theorem BlockInv.stored {s : State} (h : BlockInv s) (hen : s.repEnabled = true) :
    ∃ ext id lead old rest, Stored s ext id lead old rest := by
  obtain ⟨ext, id, len, -, hext, hid, hlen, -, hpos, hle, -, hheld⟩ := h.scheduler.armed hen
  obtain ⟨lead, hlead, hcells⟩ := exists_eq_map_append_of_held (n := len - 1) (fun k hk => hheld k (by omega))
  have hlt : len - 1 < s.repData.length := by rw [h.scheduler.dataLength]; omega
  rw [List.drop_eq_getElem_cons hlt] at hcells
  exact ⟨ext, id, lead, _, _, hext, hid, by rw [hlen, hlead]; congr 1; omega, hcells⟩

/-- A tick leaves the same frame stored, with the counter value it sent as its trailing byte (42_repeat_scheduler R102). -/
theorem Stored.afterArmedTick {s : State} {ext : Bool} {id : Ident} {lead : List Byte} {old : Option Byte} {rest : Cells}
    (h : Stored s ext id lead old rest) :
    Stored (afterArmedTick ext id lead rest s) ext id lead (some s.txCounter) rest := by
  obtain ⟨hext, hid, hlen, -⟩ := h
  exact ⟨hext, hid, hlen, rfl⟩

/-! One tick. -/

/-- A tick of the stored frame while Armed (42_repeat_scheduler R102, R104). -/
theorem tick_stored {s : State} {ext : Bool} {id : Ident} {lead : List Byte} {old : Option Byte} {rest : Cells}
    (hen : s.repEnabled = true) (h : Stored s ext id lead old rest) :
    tick s = .ok (afterArmedTick ext id lead rest s) := by
  obtain ⟨hext, hid, hlen, hcells⟩ := h
  have hset : s.repData.set lead.length (some s.txCounter) = lead.map some ++ some s.txCounter :: rest := by
    simp [hcells]
  have hdata : readCells .repData (s.repData.set lead.length (some s.txCounter)) 0 (lead.length + 1) =
      .ok (lead ++ [s.txCounter]) := by
    rw [hset]
    simpa using readCells_append .repData [] (lead ++ [s.txCounter]) rest
  rw [tick_armed s ext id lead.length _ hen hext hid hlen (by simp [hcells]) hdata, hset]
  simp only [afterTick, afterArmedTick, ← nextResp_eq_drawnResp]
  rfl

/-- A tick writes the stored bytes, the counter and the emissions, and nothing else of the block (42_repeat_scheduler R102). -/
theorem tick_frame {s t : State} (h : tick s = .ok t) :
    t = { s with repData := t.repData, txCounter := t.txCounter, script := t.script, out := t.out } := by
  obtain ⟨-, rfl⟩ | ⟨-, ext, id, k, data, -, -, -, -, -, rfl⟩ := tick_cases s t h <;> rfl

/-! TICK. -/

/-- TICK is one tick under `EXTERNAL` (42_repeat_scheduler R102). -/
theorem exec_tick_external {s : State} (h : s.cfg.timerModel = .external) : exec .tick s = finish (tick s) :=
  execTick_external s h

/-- Settles O59, by `execTick_internalMs`. -/
theorem tickInputIsNotUsedUnderInternalMs : Obligations.TickInputIsNotUsedUnderInternalMs :=
  fun s h => execTick_internalMs s h

/-- Settles O31: a tick is idle, and under `INTERNAL_MS` the input is not used at all. -/
theorem tickWhileIdleDoesNothing : Obligations.TickWhileIdleDoesNothing := by
  intro s hidle
  cases hm : s.cfg.timerModel with
  | external => rw [exec_tick_external hm, tick_idle s hidle, finish_ok]
  | internalMs => exact tickInputIsNotUsedUnderInternalMs s hm

/-- Settles O32, by `tick_stored`. -/
theorem tickWhileArmedSendsOnce : Obligations.TickWhileArmedSendsOnce := by
  intro s ext id lead old rest hm hen hstored
  rw [exec_tick_external hm, tick_stored hen hstored, finish_ok]

/-- Settles O34: in a state of the invariant a tick completes, and its frame says what it leaves alone. -/
theorem tickCompletes : Obligations.TickCompletes := by
  intro s hinv
  cases hm : s.cfg.timerModel with
  | external =>
    obtain ⟨t, ht, -⟩ := hinv.tick
    refine ⟨t, by rw [exec_tick_external hm, ht, finish_ok], ?_⟩
    rw [tick_frame ht]
    exact ⟨rfl, rfl, rfl, rfl, rfl, rfl, rfl, rfl⟩
  | internalMs =>
    exact ⟨s, tickInputIsNotUsedUnderInternalMs s hm, rfl, rfl, rfl, rfl, rfl, rfl, rfl, rfl⟩

/-! STOP. -/

/-- STOP disarms, and emits its timer command (42_repeat_scheduler R105, R110). -/
theorem stop_eq (s : State) :
    stop s = { s with repEnabled := false, tmrRunning := stoppedTimer s, out := s.out ++ [.timerCtl .stop] } := by
  unfold stop stoppedTimer
  cases hm : s.cfg.timerModel with
  | external => exact emitTimer_external _ _ hm
  | internalMs => exact emitTimer_stop_internal _ hm

/-- Settles O35: the block is Idle after STOP, so that a TICK does nothing. -/
theorem stopDisarms : Obligations.StopDisarms := by
  intro s
  have hstop : exec .stop s = .next (stop s) := rfl
  rw [hstop, stop_eq]
  refine ⟨rfl, ?_⟩
  rintro t ⟨⟩
  exact tickWhileIdleDoesNothing _ rfl

/-! MS. -/

/-- Settles O37: the three cases of `millisecond`, and in the last one the tick Idle or Armed. -/
theorem msCountsDownAndTicks : Obligations.MsCountsDownAndTicks := by
  intro s hm
  have hms : exec .ms s = finish (millisecond s) := execMs_internalMs hm
  simp only [hms, finish_next_iff]
  refine ⟨millisecond_stopped s, fun r hrun hr => ⟨millisecond_counts s r hrun hr, fun p hp hz => ?_⟩⟩
  rw [millisecond_expires s r p hrun hr hp hz]
  exact ⟨fun hidle => tick_idle _ hidle, fun ext id lead old rest hen hstored => tick_stored hen hstored⟩

end Sys2Proof.Machine
end

section
/-! Runs of ticks: the MS events of a period, which end with one tick and a full count again (O39), and two ticks with nothing
between (O33). -/

namespace Sys2Proof.Machine

/-- A run whose first operation goes on. -/
theorem execAll_cons_of_next {i : Instr} {s t : State} (is : List Instr) (h : exec i s = .next t) :
    execAll (i :: is) s = execAll is t := by
  rw [execAll, h]

/-- A run that goes on is followed by the rest of the operations (20_memory R48). -/
theorem execAll_append {is : List Instr} (js : List Instr) : ∀ {s t : State}, execAll is s = .next t →
    execAll (is ++ js) s = execAll js t := by
  induction is with
  | nil =>
    intro s t h
    cases h
    rfl
  | cons i is ih =>
    intro s t h
    obtain ⟨u, hu, ht⟩ := execAll_cons_eq_next h
    rw [List.cons_append, execAll_cons_of_next _ hu, ih ht]

/-- Fewer MS than remain only count down (42_repeat_scheduler R111). -/
theorem execAll_ms_counts (k : Nat) : ∀ {s : State} {r : Half}, s.cfg.timerModel = .internalMs → s.tmrRunning = true →
    s.tmrRemaining = some r → k < r.toNat →
    execAll (List.replicate k .ms) s = .next { s with tmrRemaining := some (r - BitVec.ofNat 16 k) } := by
  induction k with
  | zero =>
    intro s r _ _ hr _
    simp [execAll, ← hr]
  | succ k ih =>
    intro s r hm hrun hr hk
    have hcount := ((msCountsDownAndTicks s hm).2 r hrun hr).1 (by bv_omega)
    have hleft : r - 1 - BitVec.ofNat 16 k = r - BitVec.ofNat 16 (k + 1) := by bv_omega
    have hrest := ih (s := { s with tmrRemaining := some (r - 1) }) hm hrun rfl (by bv_omega)
    rw [List.replicate_succ, execAll_cons_of_next _ hcount, hrest, hleft]

section
variable {s : State} {ext : Bool} {id : Ident} {lead : List Byte} {old : Option Byte} {rest : Cells}

/-- As many MS as remain end the period: the count is full again and the stored frame ticked once (42_repeat_scheduler R111). -/
theorem execAll_ms_expires {r p : Half} (hm : s.cfg.timerModel = .internalMs) (hrun : s.tmrRunning = true)
    (hr : s.tmrRemaining = some r) (hr0 : r ≠ 0) (hp : s.tmrPeriod = some p) (hen : s.repEnabled = true)
    (hstored : Stored s ext id lead old rest) :
    execAll (List.replicate r.toNat .ms) s =
      .next (afterArmedTick ext id lead rest { s with tmrRemaining := some p }) := by
  obtain ⟨k, hk⟩ : ∃ k, r.toNat = k + 1 := ⟨r.toNat - 1, by bv_omega⟩
  have hcount := execAll_ms_counts k hm hrun hr (by omega)
  have hlast := (((msCountsDownAndTicks { s with tmrRemaining := some (r - BitVec.ofNat 16 k) } hm).2 _ hrun rfl).2 p hp
    (by bv_omega)).2 ext id lead old rest hen hstored
  rw [hk, List.replicate_succ', execAll_append _ hcount, execAll_cons_of_next _ hlast, execAll]

/-- Operations that do no more than tick the stored frame twice, whatever they do to the count of the timer. -/
theorem tickTwice_of_execAll {ops : List Instr} {r : Option Half} (hen : s.repEnabled = true)
    (hstored : Stored s ext id lead old rest)
    (h : execAll ops s =
      .next (afterArmedTick ext id lead rest (afterArmedTick ext id lead rest { s with tmrRemaining := r }))) :
    TickTwice ops s := by
  obtain ⟨hext, hid, hlen, hcells⟩ := hstored
  exact ⟨_, ext, id, lead, drawnResp s, drawnResp { s with script := s.script.tail }, h, hext, hid, hlen, by simp [hcells],
    hen, BitVec.add_assoc .., List.append_assoc ..⟩

end

/-- The timer of an Armed block that keeps its own milliseconds runs, with neither its period nor its count at 0
(42_repeat_scheduler R110). -/
theorem BlockInv.timerRuns {s : State} (h : BlockInv s) (hm : s.cfg.timerModel = .internalMs) (hen : s.repEnabled = true) :
    s.tmrRunning = true ∧ ∃ p r, s.tmrPeriod = some p ∧ s.tmrRemaining = some r ∧ p ≠ 0 ∧ r ≠ 0 := by
  have hrun : s.tmrRunning = true := (h.timer.together hm).trans hen
  obtain ⟨p, r, hp, -, hr, hr0, hle⟩ := h.timer.counting hrun
  exact ⟨hrun, p, r, hp, hr, by bv_omega, hr0⟩

/-- Settles O33: the second tick finds the frame the first one left, under `INTERNAL_MS` after a whole period. -/
theorem consecutiveTicksCountUp : Obligations.ConsecutiveTicksCountUp := by
  intro s hinv hen
  obtain ⟨ext, id, lead, old, rest, hstored⟩ := hinv.stored hen
  refine ⟨fun hm => tickTwice_of_execAll (r := s.tmrRemaining) hen hstored ?_,
    fun r p hm hr hp => tickTwice_of_execAll (r := some p) hen hstored ?_⟩
  · have hfirst := tickWhileArmedSendsOnce s ext id lead old rest hm hen hstored
    have hsecond := tickWhileArmedSendsOnce (afterArmedTick ext id lead rest s) ext id lead _ rest hm hen
      hstored.afterArmedTick
    rw [execAll_cons_of_next _ hfirst, execAll_cons_of_next _ hsecond, execAll]
  · obtain ⟨hrun, p', r', hp', hr', hp0, hr0⟩ := hinv.timerRuns hm hen
    obtain rfl : p' = p := Option.some.inj (hp'.symm.trans hp)
    obtain rfl : r' = r := Option.some.inj (hr'.symm.trans hr)
    have hfirst := execAll_ms_expires hm hrun hr hr0 hp hen hstored
    have hsecond := execAll_ms_expires (s := afterArmedTick ext id lead rest { s with tmrRemaining := some p' })
      hm hrun rfl hp0 hp hen (Stored.afterArmedTick (s := { s with tmrRemaining := some p' }) hstored)
    rw [List.replicate_add, execAll_append _ hfirst, hsecond]
    rfl

/-- Settles O39: the armed count is the whole period, which `execAll_ms_counts` and `execAll_ms_expires` follow to its
end. -/
theorem theArmedPeriodIsKept : Obligations.TheArmedPeriodIsKept := by
  intro s p hinv hm hrun hp hr
  have hen : s.repEnabled = true := (hinv.timer.together hm).symm.trans hrun
  obtain ⟨ext, id, lead, old, rest, hstored⟩ := hinv.stored hen
  obtain ⟨-, -, r, -, hr', -, hr0⟩ := hinv.timerRuns hm hen
  obtain rfl : r = p := Option.some.inj (hr'.symm.trans hr)
  refine ⟨fun k hk => execAll_ms_counts k hm hrun hr hk, ext, id, lead, old, rest, hstored, ?_⟩
  rw [execAll_ms_expires hm hrun hr hr0 hp hen hstored, ← hr]

end Sys2Proof.Machine
end

section
/-! Which operations arm and disarm the scheduler (O55). -/

namespace Sys2Proof.Machine

/-- MS never arms or disarms (42_repeat_scheduler R106). -/
theorem repEnabled_of_millisecond {s t : State} (h : millisecond s = .ok t) : t.repEnabled = s.repEnabled := by
  obtain ⟨-, rfl⟩ | ⟨-, r, -, -, rfl⟩ | ⟨-, r, p, -, -, -, htick⟩ := millisecond_cases s t h
  · rfl
  · rfl
  · rw [tick_frame htick]

/-- Nor does BUS_RX (45_inbound_processor R136). -/
theorem repEnabled_of_busReceive {w : Wire} {s t : State} (h : busReceive w s = .ok t) : t.repEnabled = s.repEnabled := by
  obtain ⟨-, rfl⟩ | ⟨sq, r, -, -, rfl⟩ := relay_cases _ s t h <;> rfl

/-- Nor does a run of FEEDs (40_serial_assembler R79). -/
theorem repEnabled_of_feedBytes {bs : List Byte} {s t : State} (h : feedBytes bs s = .ok t) :
    t.repEnabled = s.repEnabled := by
  obtain ⟨rs, hframe⟩ := feedBytes_frame bs s t h
  rw [hframe]

/-- CHECK as a row of its own writes the tracker and hands back its verdict (44_replay_guard R123; log 4). -/
theorem execCheck_eq_next {id : Ident} {c : Byte} {s t : State} (h : execCheck id c s = .next t) :
    ∃ r, t = giveResult (.verdict r) (track id c r s) := by
  cases hc : check id c s with
  | error f => simp [execCheck, hc, Except.map] at h
  | ok p =>
    obtain ⟨hp, -⟩ := check_cases id c s p.1 p.2 hc
    simp only [execCheck, hc, Except.map, finish_ok, Host.Outcome.next.injEq, hp] at h
    exact ⟨p.1, h.symm⟩

/-- No operation but DISPATCH, STOP and RESET writes `rep_enabled` (42_repeat_scheduler R106). -/
theorem exec_repEnabled {i : Instr} {s t : State} (hdispatch : i ≠ .dispatch) (hstop : i ≠ .stop) (hreset : i ≠ .reset)
    (h : exec i s = .next t) : t.repEnabled = s.repEnabled := by
  have fed : ∀ bs, finish (feedBytes bs s) = .next t → t.repEnabled = s.repEnabled := fun bs hb =>
    repEnabled_of_feedBytes ((finish_next_iff _ _).mp hb)
  have received : ∀ w, finish (busReceive w s) = .next t → t.repEnabled = s.repEnabled := fun w hw =>
    repEnabled_of_busReceive ((finish_next_iff _ _).mp hw)
  cases i with
  | feed b => exact fed [b] (feedBytes_singleton b s ▸ h)
  | dispatch => exact absurd rfl hdispatch
  | tick =>
    obtain ⟨-, rfl⟩ | ⟨-, htick⟩ := execTick_cases s t h
    · rfl
    · rw [tick_frame htick]
  | stop => exact absurd rfl hstop
  | busRx idw dlcw dlw dhw => exact received _ h
  | reset => exact absurd rfl hreset
  | ms =>
    cases hm : s.cfg.timerModel with
    | external => cases (execMs_external hm).symm.trans h
    | internalMs => exact repEnabled_of_millisecond ((finish_next_iff _ _).mp ((execMs_internalMs hm).symm.trans h))
  | req0 idc payload interval => exact fed _ h
  | req1 idc payload interval => exact fed _ h
  | reqInvalid b0 b1 b2 b3 b4 b5 => exact fed _ h
  | ntf0 id app flag => cases h; rfl
  | ntf1 id app flag => cases h; rfl
  | wireStd idw dlcw dlw dhw => exact received _ h
  | wireExt idw dlcw dlw dhw => exact received _ h
  | encode ext id data => cases h; rfl
  | decode idw dlcw dlw dhw => cases h; rfl
  | check id c =>
    obtain ⟨r, rfl⟩ := execCheck_eq_next h
    rfl

/-- STOP and RESET leave the scheduler Idle (42_repeat_scheduler R105, 70_reset_and_hazards R157). -/
theorem exec_stop_or_reset_idle {i : Instr} {s t : State} (hi : i = .stop ∨ i = .reset) (h : exec i s = .next t) :
    t.repEnabled = false := by
  obtain rfl | rfl := hi
  · cases h
    rw [stop_eq]
  · rw [exec_reset_eq_next h]
    rfl

/-- Settles O55: of the three operations that write `rep_enabled`, STOP and RESET do not arm, and DISPATCH needs a frame that
waits. -/
theorem schedulerTransitions : Obligations.SchedulerTransitions := by
  intro s t i h
  by_cases hidle : i = .stop ∨ i = .reset
  · have hoff := exec_stop_or_reset_idle hidle h
    exact ⟨fun _ hon => by simp [hoff] at hon, fun _ _ => .inr hidle⟩
  · obtain ⟨hstop, hreset⟩ := not_or.mp hidle
    by_cases hdispatch : i = .dispatch
    · subst hdispatch
      obtain ⟨hready, -⟩ := (dispatch_eq_ok s t).mp ((finish_next_iff _ _).mp h)
      exact ⟨fun _ _ => ⟨rfl, hready⟩, fun _ _ => .inl rfl⟩
    · have hsame := exec_repEnabled hdispatch hstop hreset h
      exact ⟨fun hoff hon => by simp [hsame, hoff] at hon, fun hon hoff => by simp [hsame, hon] at hoff⟩

end Sys2Proof.Machine
end

section
/-! The codec: where ENCODE puts each bit and byte, where DECODE reads them, and that each undoes the other (O40 to O43). -/

namespace Sys2Proof.Machine

/-! The identifier word. -/

/-- The bits of an identifier word (30_encoding R70, 43_bus_codec R115). -/
theorem getLsbD_idWord (layout : IdWordLayout) (ext : Bool) (id : Ident) {i : Nat} (hi : i < 32) :
    (idWord layout ext id).getLsbD i =
      if ext then (if i < 3 then i == 2 else id.getLsbD (i - 3)) else (if i < 21 then false else id.getLsbD (i - 21)) := by
  cases layout
  cases ext with
  | true =>
    have hide : ∀ j < 32, (0x00000004#32).getLsbD j = (j == 2) := by decide
    simp only [idWord, if_true, BitVec.getLsbD_or, hide i hi, BitVec.getLsbD_shiftLeft, BitVec.getLsbD_setWidth]
    by_cases h : i < 3
    · simp [h]
    · simp [hi, h, show i ≠ 2 by omega, show i - 3 < 32 by omega]
  | false =>
    by_cases h : i < 21
    · simp [idWord, h]
    · simp [idWord, hi, h, show i - 21 < 11 by omega]

/-- The IDE bit is the extended flag (30_encoding R70). -/
theorem getLsbD_idWord_ide (layout : IdWordLayout) (ext : Bool) (id : Ident) : (idWord layout ext id).getLsbD 2 = ext := by
  rw [getLsbD_idWord layout ext id (by omega)]
  cases ext <;> rfl

/-- IDE = 1: an extended identifier, from bits 31:3 (30_encoding R71). -/
theorem readIdWord_of_ide (layout : IdWordLayout) {idw : Word} (h : idw.getLsbD 2 = true) :
    readIdWord layout idw = (true, idw.extractLsb' 3 29) := by
  cases layout
  exact if_pos h

/-- IDE = 0: a standard identifier, from bits 31:21 (30_encoding R71). -/
theorem readIdWord_of_not_ide (layout : IdWordLayout) {idw : Word} (h : idw.getLsbD 2 = false) :
    readIdWord layout idw = (false, (idw.extractLsb' 21 11).setWidth 29) := by
  cases layout
  exact if_neg (ne_true_of_eq_false h)

/-- The extended flag is read from the IDE bit alone (30_encoding R71). -/
theorem readIdWord_fst (layout : IdWordLayout) (idw : Word) : (readIdWord layout idw).1 = idw.getLsbD 2 := by
  cases hide : idw.getLsbD 2 with
  | true => rw [readIdWord_of_ide layout hide]
  | false => rw [readIdWord_of_not_ide layout hide]

/-- The identifier word keeps an identifier that is inside its width (43_bus_codec R120). -/
theorem readIdWord_idWord (layout : IdWordLayout) {ext : Bool} {id : Ident} (hid : ext = false → id.toNat < 2 ^ 11) :
    readIdWord layout (idWord layout ext id) = (ext, id) := by
  cases ext with
  | true =>
    rw [readIdWord_of_ide layout (getLsbD_idWord_ide layout true id)]
    congr 1
    refine BitVec.eq_of_getLsbD_eq fun i hi => ?_
    simp [hi, getLsbD_idWord layout true id (show 3 + i < 32 by omega)]
  | false =>
    rw [readIdWord_of_not_ide layout (getLsbD_idWord_ide layout false id)]
    congr 1
    refine BitVec.eq_of_getLsbD_eq fun i hi => ?_
    by_cases h : i < 11
    · simp [hi, h, getLsbD_idWord layout false id (show 21 + i < 32 by omega)]
    · have hzero : id.getLsbD i = false :=
        Nat.testBit_lt_two_pow ((hid rfl).trans_le (Nat.pow_le_pow_right (by omega) (by omega)))
      simp [h, hzero]

/-- Reading an identifier word and writing it again clears its ignored bits (43_bus_codec R119, R120). -/
theorem idWord_readIdWord (layout : IdWordLayout) (idw : Word) :
    idWord layout (readIdWord layout idw).1 (readIdWord layout idw).2 =
      if idw.getLsbD 2 then idw &&& 0xFFFFFFFC#32 else idw &&& 0xFFE00000#32 := by
  cases hide : idw.getLsbD 2 with
  | true =>
    have hmask : ∀ j < 32, (0xFFFFFFFC#32).getLsbD j = decide (2 ≤ j) := by decide
    rw [readIdWord_of_ide layout hide, if_pos rfl]
    refine BitVec.eq_of_getLsbD_eq fun i hi => ?_
    rw [getLsbD_idWord layout _ _ hi, BitVec.getLsbD_and, hmask i hi]
    obtain h | rfl | h : i < 2 ∨ i = 2 ∨ 3 ≤ i := by omega
    · simp [show i < 3 by omega, show ¬ 2 ≤ i by omega, h.ne]
    · simp [hide]
    · simp [show ¬ i < 3 by omega, show 2 ≤ i by omega, show i - 3 < 29 by omega, show 3 + (i - 3) = i by omega]
  | false =>
    have hmask : ∀ j < 32, (0xFFE00000#32).getLsbD j = decide (21 ≤ j) := by decide
    rw [readIdWord_of_not_ide layout hide, if_neg Bool.false_ne_true]
    refine BitVec.eq_of_getLsbD_eq fun i hi => ?_
    rw [getLsbD_idWord layout _ _ hi, BitVec.getLsbD_and, hmask i hi]
    by_cases h : i < 21
    · simp [h]
    · simp [h, show 21 ≤ i by omega, show i - 21 < 29 by omega, show i - 21 < 11 by omega, show 21 + (i - 21) = i by omega]

/-- Bits that agree from `k` to `k + n` extract to the same value. -/
theorem extractLsb'_congr {m : Nat} {v w : BitVec m} {k n : Nat}
    (h : ∀ i, k ≤ i → i < k + n → v.getLsbD i = w.getLsbD i) : v.extractLsb' k n = w.extractLsb' k n := by
  refine BitVec.eq_of_getLsbD_eq fun i hi => ?_
  simp [hi, h (k + i) (by omega) (by omega)]

/-- The identifier is read from the bits that DECODE does not ignore (43_bus_codec R119). -/
theorem readIdWord_congr (layout : IdWordLayout) {v w : Word} (hide : v.getLsbD 2 = w.getLsbD 2)
    (hstd : ∀ i, 21 ≤ i → i < 32 → v.getLsbD i = w.getLsbD i)
    (hext : v.getLsbD 2 = true → ∀ i, 3 ≤ i → i < 21 → v.getLsbD i = w.getLsbD i) :
    readIdWord layout v = readIdWord layout w := by
  cases hv : v.getLsbD 2 with
  | true =>
    have hid : v.extractLsb' 3 29 = w.extractLsb' 3 29 := extractLsb'_congr fun i hlo hhi =>
      (Nat.lt_or_ge i 21).elim (hext hv i hlo) (fun h => hstd i h hhi)
    rw [readIdWord_of_ide layout hv, readIdWord_of_ide layout (hide.symm.trans hv), hid]
  | false =>
    have hid : v.extractLsb' 21 11 = w.extractLsb' 21 11 := extractLsb'_congr hstd
    rw [readIdWord_of_not_ide layout hv, readIdWord_of_not_ide layout (hide.symm.trans hv), hid]

/-! The payload. -/

/-- ENCODE looks at no payload byte after the eighth (43_bus_codec R116). -/
theorem encodeFrame_take (layout : IdWordLayout) (ext : Bool) (id : Ident) (data : List Byte) :
    encodeFrame layout ext id (data.take Config.maxBusPayload) = encodeFrame layout ext id data := by
  simp only [encodeFrame, List.take_take, Nat.min_self]

/-- Each payload byte is at its place, whatever the payload's length (43_bus_codec R114, R116). -/
theorem wireByte_encodeFrame_clamped (layout : IdWordLayout) (ext : Bool) (id : Ident) (data : List Byte) {i : Nat}
    (hi : i < 8) :
    wireByte (encodeFrame layout ext id data).dlw (encodeFrame layout ext id data).dhw i = data[i]?.getD 0x00#8 := by
  rw [← encodeFrame_take, wireByte_encodeFrame layout ext id (List.length_take_le ..) hi, List.getD_eq_getElem?_getD,
    List.getElem?_take_of_lt hi]
  rfl

/-- DECODE takes byte `i` from its place, up to the frame's length (43_bus_codec R117). -/
theorem getElem?_decodeFrame (layout : IdWordLayout) (w : Wire) (i : Nat) :
    (decodeFrame layout w).data[i]? = if i < wireLength w.dlcw then some (wireByte w.dlw w.dhw i) else none := by
  rw [decodeFrame, List.getElem?_take]
  split
  · rename_i hi
    exact getElem?_wireBytes _ _ (hi.trans_le (wireLength_le _))
  · rfl

/-- The length word of an encoded payload of at most 8 bytes reads back as its length. -/
theorem wireLength_encodeFrame (layout : IdWordLayout) (ext : Bool) (id : Ident) {data : List Byte}
    (hlen : data.length ≤ Config.maxBusPayload) : wireLength (encodeFrame layout ext id data).dlcw = data.length := by
  rw [wireLength, length_encodeFrame layout ext id hlen, Nat.min_eq_left hlen]

/-- DECODE gives the frame whose flag and identifier the identifier word reads as, whose length the length word gives, and whose
bytes stand at their places (43_bus_codec R117). -/
theorem decodeFrame_eq {layout : IdWordLayout} {w : Wire} {f : BusFrame} (hhead : readIdWord layout w.idw = (f.ext, f.id))
    (hlen : wireLength w.dlcw = f.data.length)
    (hbytes : ∀ i, i < f.data.length → f.data[i]? = some (wireByte w.dlw w.dhw i)) : decodeFrame layout w = f := by
  have hdata : (decodeFrame layout w).data = f.data := by
    refine List.ext_getElem? fun i => ?_
    rw [getElem?_decodeFrame, hlen]
    split
    · rename_i hi
      exact (hbytes i hi).symm
    · rename_i hi
      exact (List.getElem?_eq_none (Nat.not_lt.mp hi)).symm
  exact (BusFrame.mk.injEq ..).mpr ⟨congrArg Prod.fst hhead, congrArg Prod.snd hhead, hdata⟩

/-- The low data word is its bytes at positions 0 to 3 (30_encoding R69). -/
theorem le32_wireByte_low (dlw dhw : Word) :
    le32 (wireByte dlw dhw 0) (wireByte dlw dhw 1) (wireByte dlw dhw 2) (wireByte dlw dhw 3) = dlw := le32_leBytes32 dlw

/-- The high data word is its bytes at positions 4 to 7 (30_encoding R69). -/
theorem le32_wireByte_high (dlw dhw : Word) :
    le32 (wireByte dlw dhw 4) (wireByte dlw dhw 5) (wireByte dlw dhw 6) (wireByte dlw dhw 7) = dhw := le32_leBytes32 dhw

/-- Where the eight bytes agree, so do the two data words that hold them. -/
theorem dataWords_eq_of_wireByte_eq {dlw dhw dlw' dhw' : Word}
    (h : ∀ i, i < 8 → wireByte dlw dhw i = wireByte dlw' dhw' i) : dlw = dlw' ∧ dhw = dhw' := by
  constructor
  · rw [← le32_wireByte_low dlw dhw, h 0, h 1, h 2, h 3, le32_wireByte_low] <;> omega
  · rw [← le32_wireByte_high dlw dhw, h 4, h 5, h 6, h 7, le32_wireByte_high] <;> omega

/-! The round trip (43_bus_codec R120). -/

/-- A frame inside its widths survives the wire. -/
theorem decodeFrame_encodeFrame (layout : IdWordLayout) {ext : Bool} {id : Ident} {data : List Byte}
    (hid : ext = false → id.toNat < 2 ^ 11) (hlen : data.length ≤ Config.maxBusPayload) :
    decodeFrame layout (encodeFrame layout ext id data) = ⟨ext, id, data⟩ := by
  refine decodeFrame_eq (readIdWord_idWord layout hid) (wireLength_encodeFrame layout ext id hlen) fun i hi => ?_
  change i < data.length at hi
  rw [wireByte_encodeFrame_clamped layout ext id data (hi.trans_le hlen), List.getElem?_eq_getElem hi, Option.getD_some]

/-- Encoding what a tuple decodes to gives its canonical form. -/
theorem canonical_encodeFrame_decodeFrame (layout : IdWordLayout) (w : Wire) : Canonical w
    (encodeFrame layout (decodeFrame layout w).ext (decodeFrame layout w).id (decodeFrame layout w).data) := by
  refine ⟨idWord_readIdWord layout w.idw, ?_, fun i hi => ?_⟩
  · rw [encodeFrame_dlcw, decodeFrame_length, Nat.min_eq_right (wireLength_le _)]
    rfl
  · rw [wireByte_encodeFrame_clamped layout _ _ _ hi, getElem?_decodeFrame, apply_ite (Option.getD · 0x00#8)]
    rfl

/-- A tuple has one canonical form. -/
theorem Canonical.unique {w c c' : Wire} (h : Canonical w c) (h' : Canonical w c') : c = c' := by
  obtain ⟨hid, hlen, hbytes⟩ := h
  obtain ⟨hid', hlen', hbytes'⟩ := h'
  obtain ⟨hlow, hhigh⟩ := dataWords_eq_of_wireByte_eq fun i hi => (hbytes i hi).trans (hbytes' i hi).symm
  exact (Wire.mk.injEq ..).mpr ⟨hid.trans hid'.symm, hlen.trans hlen'.symm, hlow, hhigh⟩

/-- Settles O42: the identifier word and the payload bytes survive one way, and the other way gives the canonical form, of which
a tuple has only one. -/
theorem codecRoundTrip : Obligations.CodecRoundTrip :=
  ⟨fun layout _ _ _ hid hlen => decodeFrame_encodeFrame layout hid hlen, canonical_encodeFrame_decodeFrame,
    fun layout w hw => (canonical_encodeFrame_decodeFrame layout w).unique hw⟩

/-! ENCODE and DECODE as rows (log 4). -/

/-- Settles O40: the words of ENCODE, bit by bit and byte by byte. -/
theorem encodePlacesEveryField : Obligations.EncodePlacesEveryField := by
  intro s ext id data
  refine ⟨encodeFrame s.cfg.idWordLayout ext id data, rfl, rfl, fun i hi => getLsbD_idWord s.cfg.idWordLayout ext id hi, ?_,
    fun i hi => wireByte_encodeFrame_clamped _ ext id data hi⟩
  rw [encodeFrame_dlcw, Nat.min_comm]

/-- Settles O41: IDE selects the identifier's bits, and the length bounds the bytes read. -/
theorem decodeReadsEveryField : Obligations.DecodeReadsEveryField := by
  intro s idw dlcw dlw dhw
  have hlen := decodeFrame_length s.cfg.idWordLayout ⟨idw, dlcw, dlw, dhw⟩
  have hbytes : ∀ i, i < (decodeFrame s.cfg.idWordLayout ⟨idw, dlcw, dlw, dhw⟩).data.length →
      (decodeFrame s.cfg.idWordLayout ⟨idw, dlcw, dlw, dhw⟩).data[i]? = some (wireByte dlw dhw i) := fun i hi => by
    rw [getElem?_decodeFrame, if_pos (hlen ▸ hi)]
  have hide : (decodeFrame s.cfg.idWordLayout ⟨idw, dlcw, dlw, dhw⟩).ext = idw.getLsbD 2 := readIdWord_fst ..
  exact ⟨_, rfl, rfl, hide, fun h => congrArg Prod.snd (readIdWord_of_ide _ (hide ▸ h)),
    fun h => congrArg Prod.snd (readIdWord_of_not_ide _ (hide ▸ h)), hlen, hbytes⟩

/-- Settles O43: the identifier, the length and each byte within it are read from bits that the two tuples share. -/
theorem ignoredBitsDoNotMatter : Obligations.IgnoredBitsDoNotMatter := by
  rintro layout v w ⟨hide, hstd, hext, hdlc, hbytes⟩
  have hlen : wireLength v.dlcw = wireLength w.dlcw := by
    rw [wireLength, wireLength, extractLsb'_congr (k := 0) (n := 4) fun i _ hi => hdlc i (by omega)]
  refine decodeFrame_eq (readIdWord_congr layout hide hstd hext) (hlen.trans (decodeFrame_length ..).symm) fun i hi => ?_
  rw [decodeFrame_length] at hi
  rw [getElem?_decodeFrame, if_pos hi, hbytes i (hi.trans_eq hlen.symm)]

end Sys2Proof.Machine
end

section
/-! The Replay Guard: what CHECK leaves as a row of its own (O44, O45), and the inbound frame that BUS_RX has it check (O47). -/

namespace Sys2Proof.Machine

/-- A CHECK that completes hands back its verdict (44_replay_guard R123; log 4). -/
theorem exec_check_of_check {id : Ident} {c : Byte} {r : CheckResult} {s : State} (h : check id c s = .ok (r, track id c r s)) :
    exec (.check id c) s = .next (afterCheck id c r s) := by
  have hexec : exec (.check id c) s = finish ((check id c s).map fun p => giveResult (.verdict p.1) p.2) := rfl
  have hgive : giveResult (.verdict r) (track id c r s) = afterCheck id c r s := by
    simp only [giveResult, track, afterCheck, attack_eq]
  rw [hexec, h, ← hgive, Except.map, finish_ok]

/-- Settles O44, by `check_new`. -/
theorem newStreamIsClean : Obligations.NewStreamIsClean :=
  fun s id c hnew => exec_check_of_check (check_new id c s hnew)

/-- Settles O45: `check_tracked` names the verdict, which `verdict_eq` reads off the two counters. -/
theorem sameCounterIsASuspectedReplay : Obligations.SameCounterIsASuspectedReplay := by
  intro s id c last hvalid hid hcounter
  rw [← verdict_eq]
  exact exec_check_of_check (check_tracked id c last s hvalid hid hcounter)

/-- BUS_RX is the arrival of its words (45_inbound_processor R131). -/
theorem exec_busRx (idw dlcw dlw dhw : Word) (s : State) :
    exec (.busRx idw dlcw dlw dhw) s = finish (busReceive ⟨idw, dlcw, dlw, dhw⟩ s) := rfl

/-- Settles O47: `busReceive_of_frame` is the frame's whole way through the Replay Guard to the host. -/
theorem inboundFrameIsNotified : Obligations.InboundFrameIsNotified := by
  intro s idw dlcw dlw dhw ext id app sq htracked hframe
  obtain ⟨flag, hflag, hrelay⟩ := busReceive_of_frame htracked hframe
  exact ⟨flag, hflag, by rw [exec_busRx, hrelay, finish_ok]⟩

end Sys2Proof.Machine
end

section
/-! The Inbound Frame Processor: it drops an empty frame (O46), flags a repeated one (O49), and shares no state with the outbound
side (O50). -/

namespace Sys2Proof.Machine

/-- The instruction BUS_RX goes on exactly where the operation on its words answers a state. -/
theorem exec_busRx_eq_next_iff (idw dlcw dlw dhw : Word) (s t : State) :
    exec (.busRx idw dlcw dlw dhw) s = .next t ↔ busReceive ⟨idw, dlcw, dlw, dhw⟩ s = .ok t := finish_next_iff _ _

/-- Settles O46, by `busReceive_of_empty`. -/
theorem emptyFrameIsDropped : Obligations.EmptyFrameIsDropped :=
  fun s idw dlcw dlw dhw hempty => (exec_busRx_eq_next_iff idw dlcw dlw dhw s s).mpr (busReceive_of_empty hempty s)

/-! The same frame twice (45_inbound_processor R135). -/

/-- A frame whose length code is not 0 ends in a sequence byte (45_inbound_processor R133). -/
theorem decodeFrame_of_nonempty (layout : IdWordLayout) {w : Wire} (h : w.dlcw.extractLsb' 0 4 ≠ 0) :
    ∃ ext id app sq, decodeFrame layout w = ⟨ext, id, app ++ [sq]⟩ := by
  have hpos : (w.dlcw.extractLsb' 0 4).toNat ≠ 0 := fun h0 => h (BitVec.eq_of_toNat_eq h0)
  have hdata : (decodeFrame layout w).data ≠ [] := by
    rw [← List.length_pos_iff, decodeFrame_length, wireLength, Config.maxBusPayload]
    omega
  exact ⟨_, _, _, _, (BusFrame.mk.injEq ..).mpr ⟨rfl, rfl, (List.dropLast_append_getLast hdata).symm⟩⟩

/-- The flag is the last byte of a notification, and the bytes before it do not depend on it (30_encoding R64, R65). -/
theorem afterRelay_out (ext : Bool) (id : Ident) (app : List Byte) :
    ∃ bytes, ∀ sq flag s, (afterRelay ext id app sq flag s).out = s.out ++ [.hostTx (bytes ++ [flagByte flag])] := by
  cases ext <;> exact ⟨_, fun _ _ _ => rfl⟩

/-- A notified frame is the tracked one from then on (44_replay_guard R127). -/
theorem replays_afterRelay (ext : Bool) (id : Ident) (app : List Byte) (sq : Byte) (flag : Bool) (s : State) :
    Replays id sq (afterRelay ext id app sq flag s) := ⟨rfl, rfl, rfl⟩

/-- A frame that replays the tracked one is notified with flag 1 (44_replay_guard R126). -/
theorem busReceive_of_replay {w : Wire} {s : State} {ext : Bool} {id : Ident} {app : List Byte} {sq : Byte}
    (h : Replays id sq s) (hw : decodeFrame s.cfg.idWordLayout w = ⟨ext, id, app ++ [sq]⟩) :
    busReceive w s = .ok (afterRelay ext id app sq true s) := by
  obtain ⟨flag, hflag, hrelay⟩ := busReceive_of_frame (fun _ => ⟨id, sq, h.2⟩) hw
  rw [hrelay, hflag.mpr h]

/-- Settles O49: the first frame is the tracked one when the second arrives, so that the second is a replay. -/
theorem repeatedFrameIsFlagged : Obligations.RepeatedFrameIsFlagged := by
  intro s idw dlcw dlw dhw htracked hlen
  obtain ⟨ext, id, app, sq, hframe⟩ := decodeFrame_of_nonempty s.cfg.idWordLayout (w := ⟨idw, dlcw, dlw, dhw⟩) hlen
  obtain ⟨flag, -, hfirst⟩ := busReceive_of_frame htracked hframe
  have hsecond := busReceive_of_replay (replays_afterRelay ext id app sq flag s) hframe
  obtain ⟨bytes, hout⟩ := afterRelay_out ext id app
  refine ⟨afterRelay ext id app sq true (afterRelay ext id app sq flag s), bytes, flagByte flag, ?_, ?_⟩
  · rw [execAll_cons_of_next _ ((exec_busRx_eq_next_iff ..).mpr hfirst),
      execAll_cons_of_next _ ((exec_busRx_eq_next_iff ..).mpr hsecond), execAll]
  · rw [hout, hout, List.append_assoc]
    rfl

/-! Inbound and outbound traffic (45_inbound_processor R136). -/

/-- The two states hold the same in the Replay Guard (10_state R30). -/
structure SameGuard (s t : State) : Prop where
  trkValid   : s.trkValid = t.trkValid
  trkId      : s.trkId = t.trkId
  trkCounter : s.trkCounter = t.trkCounter
  attackFlag : s.attackFlag = t.attackFlag

/-- A CHECK that completes either starts a stream or finds the tracked one with its counter (44_replay_guard R125, R126). -/
theorem check_reads {id : Ident} {c : Byte} {s : State} {p : CheckResult × State} (h : check id c s = .ok p) :
    (s.trkValid = false ∨ ∃ last, s.trkId = some last ∧ id ≠ last) ∨
    (s.trkValid = true ∧ s.trkId = some id ∧ ∃ last, s.trkCounter = some last) := by
  cases hv : s.trkValid with
  | false => exact .inl (.inl rfl)
  | true =>
    simp only [check, hv, if_true] at h
    obtain ⟨last, hlast, h⟩ := (bind_eq_ok _ _ _).mp h
    have hid := (readValue_eq_ok _ _ _).mp hlast
    by_cases heq : id = last
    · rw [if_pos heq] at h
      obtain ⟨counter, hcounter, -⟩ := (bind_eq_ok _ _ _).mp h
      exact .inr ⟨rfl, heq ▸ hid, counter, (readValue_eq_ok _ _ _).mp hcounter⟩
    · exact .inl (.inr ⟨last, hid, heq⟩)

/-- Where CHECK completes in one state, it gives the same verdict in every state whose Replay Guard holds the same
(44_replay_guard R123). -/
theorem SameGuard.check {s s' u : State} (h : SameGuard s s') {id : Ident} {c : Byte} {r : CheckResult}
    (hc : check id c s = .ok (r, u)) : Machine.check id c s' = .ok (r, track id c r s') := by
  obtain hnew | ⟨hvalid, hid, last, hcounter⟩ := check_reads hc
  · cases (check_new id c s hnew).symm.trans hc
    exact check_new id c s' (h.trkValid ▸ h.trkId ▸ hnew)
  · cases (check_tracked id c last s hvalid hid hcounter).symm.trans hc
    exact check_tracked id c last s' (h.trkValid ▸ hvalid) (h.trkId ▸ hid) (h.trkCounter ▸ hcounter)

/-- BUS_RX completes by dropping an empty frame, or by notifying a frame whose CHECK completes (45_inbound_processor R131). -/
theorem relay_checks {f : BusFrame} {s t : State} (h : relay f s = .ok t) :
    (f.data = [] ∧ t = s) ∨
    ∃ sq r, f.data.getLast? = some sq ∧ check f.id sq s = .ok (r, track f.id sq r s) ∧ t = afterNotify f sq r s := by
  obtain hempty | ⟨sq, -, hlast, -⟩ := relay_cases f s t h
  · exact .inl hempty
  · have hbind := h
    simp only [relay, hlast] at hbind
    obtain ⟨⟨r, u⟩, hc, -⟩ := (bind_eq_ok _ _ _).mp hbind
    obtain ⟨rfl, -⟩ := check_cases _ _ _ _ _ hc
    exact .inr ⟨sq, r, hlast, hc, Except.ok.inj (h.symm.trans (relay_of_check hlast hc))⟩

/-- A notification writes the Replay Guard and one emission (45_inbound_processor R136). -/
theorem onlyGuard_afterNotify (f : BusFrame) (sq : Byte) (r : CheckResult) (s : State) :
    OnlyGuard s (afterNotify f sq r s) := rfl

/-- From two states whose Replay Guard holds the same, a frame has the same notification and leaves the same tracker, and
nothing else is written in either (45_inbound_processor R136). -/
theorem SameGuard.relay {s s' t : State} (h : SameGuard s s') {f : BusFrame} (hrelay : relay f s = .ok t) :
    OnlyGuard s t ∧ ∃ (t' : State) (o : List Output), Machine.relay f s' = .ok t' ∧ OnlyGuard s' t' ∧
      t.out = s.out ++ o ∧ t'.out = s'.out ++ o ∧ SameGuard t t' := by
  obtain ⟨hempty, rfl⟩ | ⟨sq, r, hlast, hcheck, rfl⟩ := relay_checks hrelay
  · exact ⟨rfl, s', [], relay_empty f s' hempty, rfl, (List.append_nil _).symm, (List.append_nil _).symm, h⟩
  · exact ⟨onlyGuard_afterNotify f sq r s, afterNotify f sq r s', _, relay_of_check hlast (h.check hcheck),
      onlyGuard_afterNotify f sq r s', rfl, rfl, rfl, rfl, rfl, rfl⟩

/-- A tick leaves the Replay Guard alone (42_repeat_scheduler R102). -/
theorem sameGuard_of_tick {s t : State} (h : tick s = .ok t) : SameGuard t s := by
  rw [tick_frame h]
  exact ⟨rfl, rfl, rfl, rfl⟩

/-- So does a millisecond, whether it ticks or only counts (42_repeat_scheduler R111). -/
theorem sameGuard_of_millisecond {s t : State} (h : millisecond s = .ok t) : SameGuard t s := by
  obtain ⟨-, rfl⟩ | ⟨-, r, -, -, rfl⟩ | ⟨-, r, p, -, -, -, htick⟩ := millisecond_cases s t h
  · exact ⟨rfl, rfl, rfl, rfl⟩
  · exact ⟨rfl, rfl, rfl, rfl⟩
  · obtain ⟨hvalid, hid, hcounter, hflag⟩ := sameGuard_of_tick htick
    exact ⟨hvalid, hid, hcounter, hflag⟩

/-- The operations that send leave the Replay Guard alone (45_inbound_processor R136). -/
theorem sameGuard_of_outbound {s t : State} {i : Instr} (hi : i = .dispatch ∨ i = .tick ∨ i = .ms)
    (h : exec i s = .next t) : SameGuard t s := by
  obtain rfl | rfl | rfl := hi
  · obtain ⟨-, r, -, rfl⟩ := (dispatch_eq_ok s t).mp ((finish_next_iff _ _).mp h)
    obtain ⟨-, -, -, -, hvalid, hid, hcounter, hflag, -⟩ := runRequest_fields r s
    exact ⟨hvalid, hid, hcounter, hflag⟩
  · obtain ⟨-, rfl⟩ | ⟨-, htick⟩ := execTick_cases s t h
    · exact ⟨rfl, rfl, rfl, rfl⟩
    · exact sameGuard_of_tick htick
  · cases hm : s.cfg.timerModel with
    | external => cases (execMs_external hm).symm.trans h
    | internalMs =>
      exact sameGuard_of_millisecond ((finish_next_iff _ _).mp ((execMs_internalMs hm).symm.trans h))

/-- Settles O50: BUS_RX is `SameGuard.relay` of the frame that both states decode, and sending keeps the Replay Guard by
`sameGuard_of_outbound`. -/
theorem inboundIsIndependentOfOutbound : Obligations.InboundIsIndependentOfOutbound := by
  refine ⟨fun s s' t idw dlcw dlw dhw hlayout hvalid hid hcounter hflag h => ?_, fun s t i hi h => ?_⟩
  · have hguard : SameGuard s s' := ⟨hvalid, hid, hcounter, hflag⟩
    obtain ⟨hst, t', o, hrelay, hst', hout, hout', hvalid', hid', hcounter', hflag'⟩ :=
      hguard.relay ((exec_busRx_eq_next_iff ..).mp h)
    rw [hlayout] at hrelay
    exact ⟨hst, t', o, (exec_busRx_eq_next_iff ..).mpr hrelay, hst', hout, hout', hvalid', hid', hcounter', hflag'⟩
  · obtain ⟨hvalid, hid, hcounter, hflag⟩ := sameGuard_of_outbound hi h
    exact ⟨hvalid, hid, hcounter, hflag⟩

end Sys2Proof.Machine
end

section
/-! The reset values (O10), and power-on as the state that RESET leaves as it is (O12). -/

namespace Sys2Proof.Machine

/-- RESET goes on from every state (70_reset_and_hazards R157). -/
theorem exec_reset (s : State) : exec .reset s = .next (resetBlock s) := rfl

/-- RESET stops the reference timer where there is one (70_reset_and_hazards R157). -/
theorem tmrRunning_resetBlock_internalMs {s : State} (h : s.cfg.timerModel = .internalMs) :
    (resetBlock s).tmrRunning = false := by
  simp [resetBlock, h]

/-- Settles O10: every element is written whatever the state, and only the running bit needs the timer model. -/
theorem resetGivesTheResetValues : Obligations.ResetGivesTheResetValues :=
  fun s => ⟨resetBlock s, exec_reset s, rfl, rfl, rfl, rfl, rfl, rfl, tmrRunning_resetBlock_internalMs,
    rfl, rfl, rfl, rfl, rfl, rfl, rfl, rfl, rfl, rfl, rfl⟩

/-- In the power-on state the running bit is clear, so that RESET keeps it under either timer model. -/
theorem tmrRunning_resetBlock_resetWith (c : Config) : (resetBlock (State.resetWith c)).tmrRunning = false := by
  cases hm : c.timerModel with
  | external => exact tmrRunning_resetBlock_external hm
  | internalMs => exact tmrRunning_resetBlock_internalMs hm

/-- RESET writes the running bit as it is and every other element with the value that power-on gives it
(70_reset_and_hazards R157, R159). -/
theorem resetBlock_resetWith (c : Config) : resetBlock (State.resetWith c) = State.resetWith c :=
  calc resetBlock (State.resetWith c)
    _ = { State.resetWith c with tmrRunning := (resetBlock (State.resetWith c)).tmrRunning } := rfl
    _ = State.resetWith c := by rw [tmrRunning_resetBlock_resetWith]; rfl

/-- Settles O12: RESET is the identity on the power-on state, and the model's reset state is the one of the default
parameters by definition. -/
theorem powerOnIsTheStateAfterReset : Obligations.PowerOnIsTheStateAfterReset :=
  ⟨fun c => (exec_reset _).trans (congrArg _ (resetBlock_resetWith c)), rfl⟩

end Sys2Proof.Machine
end
